-- ==== Sys2Proof/Word.lean ====
section
/-! DEFINITION. The widths of this hardware: bytes, the 21-bit sequence numbers, the 22-bit counters, the 32-bit
command and response words, and byte strings (00_scope.md R13 to R15, 10_state.md R21 to R27, 30_encoding.md R78, R83). -/

namespace Sys2Proof

/-- A byte, always read as an unsigned value 0 to 255 (R14). -/
abbrev Byte := BitVec 8

/-- A command word or a response word: one 32-bit value given by bit number, with no byte order (R55, R78, R83). -/
abbrev Word := BitVec 32

/-- A sequence number: a 21-bit value in `[0, 128^3)` (R13). -/
abbrev SeqNum := BitVec 21

/-- A counter register: 22 bits, so that it can hold `2^21`, one more than the largest sequence number (R42). -/
abbrev Counter := BitVec 22

/-- A byte string; offset 0 is the first byte sent (R15). A frame is a byte string of exactly `C` bytes. -/
abbrev Bytes := List Byte

/-- `zeros(n)`: a string of `n` bytes of value 0 (R15). -/
def zeros (n : Nat) : Bytes := List.replicate n 0#8

/-- The size of the sequence-number space, `128^3 = 2^21` (R12, R13). -/
abbrev seqSpace : Nat := 2097152

/-- The header of a frame takes 7 bytes (R9, R13). -/
abbrev headerSize : Nat := 7

end Sys2Proof
end

