-- ==== Sys2Proof/Config.lean ====
section
/-! DEFINITION. The four configuration constants of a block (00_scope.md R9 to R12, 10_state.md R30). They are inputs
held constant from before reset is released until the next reset, so a state carries one `Config` and no operation
writes it. The hardware leaves no value free that a step could read, so there is no opaque constant here. -/

namespace Sys2Proof

/-- The configuration constants of rule R30. Any four numbers can be written down; `Config.legal`
(WellFormed.lean) says which of them are this hardware (R225). -/
structure Config where
  /-- Frame capacity in bytes (R9). -/
  C : Nat
  /-- Window size: the greatest number of unacknowledged frames (R10). -/
  W : Nat
  /-- Timeout duration, carried by every TMR_START and never computed with (R11).
  DESIGN CHOICE (log entry 11): a number of an unstated unit. -/
  T : Nat
  /-- Store depth: the number of frame slots (R12). -/
  N_OUT : Nat
deriving DecidableEq, Repr

/-- `MP = C - 7`, the maximum payload of a frame (R9). -/
def Config.MP (cfg : Config) : Nat := cfg.C - headerSize

/-- The constants that 95_test_vectors.md uses: C = 17 (MP = 10), W = 3, N_OUT = 64; T is opaque there.
DESIGN CHOICE (log entry 1): `State.reset` carries them, and no statement rests on them. -/
def Config.vectors : Config := { C := 17, W := 3, T := 1, N_OUT := 64 }

end Sys2Proof
end

