-- ==== Sys2Proof/Syntax.lean ====
section
/-! DEFINITION. The ten operations of the opcode map (30_encoding.md R80), one constructor a row of
spec/opcode_table.json. The input buffer DIN that some operations take is not part of the command word (R78); it is
presented beside it (`Machine.Command`). -/

namespace Sys2Proof

/-- One operation of the block. Only ENC has an operand in its word: the 21-bit `seq` field (R78). -/
inductive Instr where
  /-- ENC `seq`, DIN = payload (R106). -/
  | enc (seq : SeqNum)
  /-- DEC, DIN = frame (R112). -/
  | dec
  /-- S_INIT (R132). -/
  | sInit
  /-- S_FINAL (R133). -/
  | sFinal
  /-- S_SUBMIT, DIN = message (R134). -/
  | sSubmit
  /-- S_ACK, DIN = frame (R142). -/
  | sAck
  /-- S_TMO (R148). -/
  | sTmo
  /-- R_INIT (R171). -/
  | rInit
  /-- R_FINAL (R172). -/
  | rFinal
  /-- R_FRAME, DIN = frame (R173). -/
  | rFrame
deriving DecidableEq, Repr

/-- The three units of the block (R2, R4). -/
inductive HwUnit where
  | codec
  | snd
  | rcv
deriving DecidableEq, Repr

/-- What the input buffer DIN holds for an operation (R79). -/
inductive DinKind where
  /-- The operation takes no DIN and ignores one if presented. -/
  | none
  /-- A byte string of any presented length (ENC refuses one above MP itself, R107). -/
  | payload
  /-- A frame: by type exactly C bytes. -/
  | frame
  /-- A byte string of any length, 0 included. -/
  | message
deriving DecidableEq, Repr

/-- The mnemonic column of the opcode map (R80). -/
def Instr.mnemonic : Instr → String
  | .enc _ => "ENC"
  | .dec => "DEC"
  | .sInit => "S_INIT"
  | .sFinal => "S_FINAL"
  | .sSubmit => "S_SUBMIT"
  | .sAck => "S_ACK"
  | .sTmo => "S_TMO"
  | .rInit => "R_INIT"
  | .rFinal => "R_FINAL"
  | .rFrame => "R_FRAME"

/-- The unit column of the opcode map (R80). -/
def Instr.hwUnit : Instr → HwUnit
  | .enc _ => .codec
  | .dec => .codec
  | .sInit => .snd
  | .sFinal => .snd
  | .sSubmit => .snd
  | .sAck => .snd
  | .sTmo => .snd
  | .rInit => .rcv
  | .rFinal => .rcv
  | .rFrame => .rcv

/-- The DIN column of the opcode map (R79, R80). -/
def Instr.dinKind : Instr → DinKind
  | .enc _ => .payload
  | .dec => .frame
  | .sInit => .none
  | .sFinal => .none
  | .sSubmit => .message
  | .sAck => .frame
  | .sTmo => .none
  | .rInit => .none
  | .rFinal => .none
  | .rFrame => .frame

end Sys2Proof
end

