-- ==== Sys2Proof/WellFormed.lean ====
section
/-! DEFINITION. What may be presented to the block: constants in their legal ranges (00_scope.md R9 to R12,
70_reset_and_hazards.md R225) and an input buffer of the type the operation takes (30_encoding.md R79). The operand
of a command word needs no check: every value of the 21-bit `seq` field is a legal sequence number (R78). -/

namespace Sys2Proof

/-- `8 <= C <= 262` (R9). -/
def Config.capacityLegal (cfg : Config) : Bool := decide (8 ≤ cfg.C) && decide (cfg.C ≤ 262)

/-- `1 <= W <= 2^21` (R10). -/
def Config.windowLegal (cfg : Config) : Bool := decide (1 ≤ cfg.W) && decide (cfg.W ≤ seqSpace)

/-- `1 <= N_OUT <= 2^21` (R12). -/
def Config.depthLegal (cfg : Config) : Bool := decide (1 ≤ cfg.N_OUT) && decide (cfg.N_OUT ≤ seqSpace)

/-- The constants are in their legal ranges (R225). T is opaque: every value is legal (R11). -/
def Config.legal (cfg : Config) : Bool := cfg.capacityLegal && cfg.windowLegal && cfg.depthLegal

/-- The byte string can be presented as an input buffer of this kind (R79): a frame is exactly C bytes, every
other kind has no length of its own. -/
def DinKind.admits (cfg : Config) (din : Bytes) : DinKind → Bool
  | .none => true
  | .payload => true
  | .frame => din.length == cfg.C
  | .message => true

/-- The operation with this input buffer is a command that the dispatcher can present (R79). -/
def Instr.wellFormed (cfg : Config) (din : Bytes) (i : Instr) : Bool := i.dinKind.admits cfg din

end Sys2Proof
end

