-- ==== Sys2Proof/Decode.lean ====
section
/-! DEFINITION. The command word (30_encoding.md R78 to R82, R90): its fields, the opcode map, the decoder (total on
every 32-bit word, refusing an illegal word by the name of its defect, R81) and the encoder. -/

namespace Sys2Proof

/-- The `op` field, bits 31:28 (R78). -/
def opField (w : Word) : BitVec 4 := w.extractLsb' 28 4

/-- The `zero` field, bits 27:21, which must be 0000000 (R78). -/
def zeroField (w : Word) : BitVec 7 := w.extractLsb' 21 7

/-- The `seq` field, bits 20:0: the operand of ENC, 0 for every other operation (R78). -/
def seqField (w : Word) : SeqNum := w.extractLsb' 0 21

/-- Why a word is an illegal command (R81, R195). The block answers all three alike, with ILLEGAL_CMD. -/
inductive IllegalWord where
  /-- `op` is 0x0 or 0xB to 0xF. -/
  | unassignedOp
  /-- A bit of the `zero` field is set. -/
  | zeroFieldSet
  /-- A bit of `seq` is set and `op` is not ENC. -/
  | seqFieldSet
deriving DecidableEq, Repr

/-- The operation that an `op` code selects, with its operand (the `op` column of R80). -/
def selectOp (op : Nat) (seq : SeqNum) : Option Instr :=
  match op with
  | 1 => some (.enc seq)
  | 2 => some .dec
  | 3 => some .sInit
  | 4 => some .sFinal
  | 5 => some .sSubmit
  | 6 => some .sAck
  | 7 => some .sTmo
  | 8 => some .rInit
  | 9 => some .rFinal
  | 10 => some .rFrame
  | _ => none

/-- The operation takes its operand from the `seq` field: only ENC (R78). -/
def Instr.takesSeq : Instr → Bool
  | .enc _ => true
  | .dec => false
  | .sInit => false
  | .sFinal => false
  | .sSubmit => false
  | .sAck => false
  | .sTmo => false
  | .rInit => false
  | .rFinal => false
  | .rFrame => false

/-- The decoder: the operation a word selects, or the name of what makes it illegal (R80, R81).
DESIGN CHOICE (log entry 14): which defect of several is named first; the block does not report it. -/
def decode (w : Word) : Except IllegalWord Instr :=
  match selectOp (opField w).toNat (seqField w) with
  | none => .error .unassignedOp
  | some i =>
    if zeroField w ≠ 0#7 then .error .zeroFieldSet
    else if !i.takesSeq && seqField w != 0#21 then .error .seqFieldSet
    else .ok i

/-- The `op` code of an operation (R80). -/
def Instr.opCode : Instr → BitVec 4
  | .enc _ => 0x1#4
  | .dec => 0x2#4
  | .sInit => 0x3#4
  | .sFinal => 0x4#4
  | .sSubmit => 0x5#4
  | .sAck => 0x6#4
  | .sTmo => 0x7#4
  | .rInit => 0x8#4
  | .rFinal => 0x9#4
  | .rFrame => 0xA#4

/-- The `seq` field of an operation's word (R90): the operand of ENC, or 0. -/
def Instr.seqOperand : Instr → SeqNum
  | .enc seq => seq
  | .dec => 0#21
  | .sInit => 0#21
  | .sFinal => 0#21
  | .sSubmit => 0#21
  | .sAck => 0#21
  | .sTmo => 0#21
  | .rInit => 0#21
  | .rFinal => 0#21
  | .rFrame => 0#21

/-- The encoder: `cmd = {op, 0000000, seq}` (R90). -/
def encode (i : Instr) : Word := i.opCode ++ 0#7 ++ i.seqOperand

/-- A row of the opcode map: a word selects the row when `(cmd AND mask) = pattern` (R80). -/
structure OpcodeRow where
  mnemonic : String
  pattern : Word
  mask : Word
deriving DecidableEq, Repr

/-- The `match` and `mask` columns of the opcode map (R80), in the table's order. -/
def opcodeMap : List OpcodeRow :=
  [ ⟨"ENC", 0x10000000#32, 0xFFE00000#32⟩,
    ⟨"DEC", 0x20000000#32, 0xFFFFFFFF#32⟩,
    ⟨"S_INIT", 0x30000000#32, 0xFFFFFFFF#32⟩,
    ⟨"S_FINAL", 0x40000000#32, 0xFFFFFFFF#32⟩,
    ⟨"S_SUBMIT", 0x50000000#32, 0xFFFFFFFF#32⟩,
    ⟨"S_ACK", 0x60000000#32, 0xFFFFFFFF#32⟩,
    ⟨"S_TMO", 0x70000000#32, 0xFFFFFFFF#32⟩,
    ⟨"R_INIT", 0x80000000#32, 0xFFFFFFFF#32⟩,
    ⟨"R_FINAL", 0x90000000#32, 0xFFFFFFFF#32⟩,
    ⟨"R_FRAME", 0xA0000000#32, 0xFFFFFFFF#32⟩ ]

/-- The word selects the row (R80). -/
def OpcodeRow.selects (row : OpcodeRow) (w : Word) : Bool := w &&& row.mask == row.pattern

/-- The command word that the low `nbits` bits of `w` stand for, bit 0 the least significant bit of the word.
A command is one 32-bit value with no byte order (R55, R82), so a number of more than 32 bits is none. -/
def tableWord (nbits w : Nat) : Option Word :=
  if w % 2 ^ nbits < 2 ^ 32 then some (BitVec.ofNat 32 (w % 2 ^ nbits)) else none

/-- What the decoder reads from an instruction whose bits are `w`, numbered as spec/opcode_table.json numbers them. -/
def decodeTableWord (nbits w : Nat) : Option Instr :=
  match tableWord nbits w with
  | none => none
  | some word =>
    match decode word with
    | .ok i => some i
    | .error _ => none

end Sys2Proof
end

