-- ==== Sys2Proof/Machine/State.lean ====
section
/-! DEFINITION. The state of one block instance (10_state.md R20 to R31), the configuration inputs it was built
with (R30), its command, response and event ports (30_encoding.md R78, R83, R86), and the reasons a step can stop. -/

namespace Sys2Proof.Machine

/-- The sender's life-cycle mode `s_mode` (R26). The code 3 of its 2 bits "is never written", so it has no name here
(log entry 13). -/
inductive SMode where
  /-- DOWN (0): no window exists. -/
  | down
  /-- OPEN (1): every sender operation is served. -/
  | opened
  /-- DRAIN (2): submissions are refused, acks and timeouts still served. -/
  | drain
deriving DecidableEq, Repr

/-- The statuses of a response (R84, R190). -/
inductive Status where
  | ok
  | corrupt
  | outOfOrder
  | notOpen
  | contract
  | illegalCmd
  | allocFail
  | aborted
deriving DecidableEq, Repr

/-- Why `decode` called a frame corrupt (R85, R109). -/
inductive Cause where
  | lenRange
  | seqDigit
  | cksum
deriving DecidableEq, Repr

/-- The output events (R86). -/
inductive Event where
  /-- S_SEND(f): a frame in the data direction. -/
  | sSend (f : Bytes)
  /-- R_SEND(f): a frame in the acknowledgment direction. -/
  | rSend (f : Bytes)
  /-- R_DELIVER(p): a fragment for the upper layer. -/
  | rDeliver (p : Bytes)
  /-- TMR_START(T). -/
  | tmrStart (duration : Nat)
  /-- TMR_STOP. -/
  | tmrStop
deriving DecidableEq, Repr

/-- One command on the command port: its word and the input buffer DIN presented with it (R78, R79). -/
structure Command where
  word : Word
  din : Bytes
deriving DecidableEq, Repr

/-- What reaches the block from outside. -/
inductive Input where
  /-- The dispatcher issues a command (R64, R232). -/
  | command (c : Command)
  /-- Reset is applied between operations; `cfg` is held constant from now until the next reset (R220, R30). -/
  | reset (cfg : Config)
  /-- Reset cuts an operation short, after it has emitted its first `emitted` events (R220; log entry 9). -/
  | resetDuring (c : Command) (emitted : Nat) (cfg : Config)
deriving DecidableEq, Repr

/-- The bytes of the outstanding-frame store that have been written: (address, byte) pairs, addresses strictly rising.
An address that is not listed holds no value (R24, R222; log entry 7). -/
abbrev Memory := List Host.Cell

/-- The whole state of one block instance (R20). -/
structure Block where
  /-- `s_mode` (R26). -/
  sMode : SMode
  /-- `base`: sequence number of the oldest unacknowledged packet (R21). -/
  base : Counter
  /-- `next_seq_num`: index of the first frame never transmitted (R22). -/
  nextSeqNum : Counter
  /-- `out_len`: number of frames constructed since the last S_INIT (R23). -/
  outLen : Counter
  /-- `tmr_run`: the last timer event asked for was a start (R25). -/
  tmrRun : Bool
  /-- `OUT`: the outstanding-frame store (R24, R50, R52). -/
  out : Memory
  /-- `r_open`: the receiver's life-cycle bit (R28). -/
  rOpen : Bool
  /-- `expected_seq_num`: the receiver cursor (R27). -/
  expectedSeqNum : Counter
  /-- `abort`: the sticky fault bit of the block (R29). -/
  abort : Bool
deriving DecidableEq, Repr

/-- A block with its configuration inputs and its ports. The ports are the model's own fields: 10_state.md R40 makes
them arguments and results of the step (log entry 2). -/
structure State where
  /-- The configuration inputs; written by reset only (R30). -/
  cfg : Config
  /-- The state of the block (R20). -/
  block : Block
  /-- What the outside world will present, in order, one at a time (R232; log entry 3). -/
  inputs : List Input
  /-- DIN of the command being run (R61). -/
  din : Bytes
  /-- The response word of the last command (R83). -/
  rsp : Word
  /-- DOUT of the last command (R61, R83). -/
  dout : Bytes
  /-- The output events of the last command, in the order emitted (R86, R87). -/
  events : List Event
deriving DecidableEq, Repr

/-- Why the model stops at a store access that, by R56, only a bug in the sender rules could make and for which "the
hardware has no fault". No state that meets `Safety.Inv` raises one. -/
inductive Fault where
  /-- An index at or above N_OUT: there is no such slot (R52, R56). Raised by `outRead` and `outWrite`. Safe: the model
  stops where nothing is specified. -/
  | storeSlotAbsent
  /-- A read of a slot at or above `out_len`, which holds no meaningful value (R24, R56). Raised by `outRead`. Safe: no
  claim can rest on a stale value. -/
  | slotMeaningless
  /-- A read of a byte nothing has written since reset (R59, R222). Raised by `outRead`. Safe: no claim can rest on the
  content of the store after reset. -/
  | byteUnwritten
deriving DecidableEq, Repr

/-- Why the model has no step. -/
inductive Refusal where
  /-- The instruction has no meaning yet; raised by `exec` alone. Safe. -/
  | notModelled (mnemonic : String)
  /-- The byte string beside DEC, S_ACK or R_FRAME is not a frame of C bytes: it "cannot be presented" (R79). Raised by
  those three meanings. Safe: the dispatcher has no such command (log entry 5). -/
  | dinNotAFrame
  /-- The constants are out of range: "not this hardware and a model refuses to build it" (R225, U9). Raised by `step`.
  Safe (log entry 6). -/
  | configOutOfRange
deriving DecidableEq, Repr

/-- The block right after reset (R41, R221); no slot of the store holds a value (R222). -/
def Block.reset : Block :=
  { sMode := .down, base := 0#22, nextSeqNum := 0#22, outLen := 0#22, tmrRun := false, out := [],
    rOpen := false, expectedSeqNum := 0#22, abort := false }

/-- A block built with these constants, right after reset: nothing presented yet, no response and no event (R223). -/
def State.resetWith (cfg : Config) : State :=
  { cfg := cfg, block := Block.reset, inputs := [], din := [], rsp := 0#32, dout := [], events := [] }

/-- The machine right after reset (R41, R221), built with the constants of the spec's vectors (log entry 1). -/
def State.reset : State := State.resetWith Config.vectors

end Sys2Proof.Machine
end

