-- ==== Sys2Proof/Machine/Ops.lean ====
section
/-! DEFINITION. The named operations: the store (20_memory.md R50 to R59), the register writes, the output events and
the timer controller (30_encoding.md R86, 60_exceptions.md R209), ending an operation with OK or with another status
(30_encoding.md R83 to R85, 60_exceptions.md R190 to R203), and reset (70_reset_and_hazards.md R220 to R223). -/

namespace Sys2Proof.Machine

/-- What one step answers. -/
abbrev Outcome := Host.Outcome State Fault Refusal

/-! ### The store as byte-addressed memory (R52) -/

/-- The canonical form: addresses strictly rising. An unlisted address holds no value, so no listed entry can equal
what an unlisted address reads as, and equal contents are equal lists. -/
abbrev Memory.wf (m : Memory) : Prop := m.Pairwise (fun x y => x.1 < y.1)

/-- The byte at an address, or none where nothing has been written. -/
def readByte : Memory → Nat → Option Byte
  | [], _ => none
  | (k, v) :: m, a => if k = a then some v else readByte m a

/-- Writes one byte, keeping the addresses rising. -/
def writeByte : Memory → Nat → Byte → Memory
  | [], a, b => [(a, b)]
  | (k, v) :: m, a, b =>
    if a < k then (a, b) :: (k, v) :: m
    else if a = k then (k, b) :: m
    else (k, v) :: writeByte m a b

/-- `MemWrite(a, |bs|, bs)`: the byte at offset j of the string goes to address `a + j` (R52). -/
def memWrite : Memory → Nat → Bytes → Memory
  | m, _, [] => m
  | m, a, b :: bs => memWrite (writeByte m a b) (a + 1) bs

/-- `MemRead(a, n)`: the `n` bytes at addresses `a` up, or none where one of them was never written. -/
def memRead (m : Memory) (a : Nat) : Nat → Option Bytes
  | 0 => some []
  | n + 1 =>
    match readByte m a, memRead m (a + 1) n with
    | some b, some bs => some (b :: bs)
    | _, _ => none

/-! ### Register writes -/

/-- `s_mode <- m`. -/
def State.setSMode (s : State) (m : SMode) : State := { s with block := { s.block with sMode := m } }

/-- `base <- v`. -/
def State.setBase (s : State) (v : Counter) : State := { s with block := { s.block with base := v } }

/-- `next_seq_num <- v`. -/
def State.setNext (s : State) (v : Counter) : State := { s with block := { s.block with nextSeqNum := v } }

/-- `out_len <- v`. -/
def State.setOutLen (s : State) (v : Counter) : State := { s with block := { s.block with outLen := v } }

/-- `tmr_run <- v`. -/
def State.setTmrRun (s : State) (v : Bool) : State := { s with block := { s.block with tmrRun := v } }

/-- Replaces the contents of the store. -/
def State.setOut (s : State) (m : Memory) : State := { s with block := { s.block with out := m } }

/-- `r_open <- v`. -/
def State.setROpen (s : State) (v : Bool) : State := { s with block := { s.block with rOpen := v } }

/-- `expected_seq_num <- v`. -/
def State.setExpected (s : State) (v : Counter) : State :=
  { s with block := { s.block with expectedSeqNum := v } }

/-- `abort <- 1`: the one write of this bit; only reset clears it (R29, R203). -/
def State.setAbort (s : State) : State := { s with block := { s.block with abort := true } }

/-! ### The store by slots (R16, R52) -/

/-- `OutRead(i) = MemRead(i * C, C)` (R16, R52). A read that R56 and R59 say no rule makes is a named fault. -/
def State.outRead (s : State) (i : Nat) : Except Fault Bytes :=
  if s.cfg.N_OUT ≤ i then .error .storeSlotAbsent
  else if s.block.outLen.toNat ≤ i then .error .slotMeaningless
  else
    match memRead s.block.out (i * s.cfg.C) s.cfg.C with
    | some f => .ok f
    | none => .error .byteUnwritten

/-- `OutWrite(i, f) = MemWrite(i * C, C, f)` (R16, R52). An index at or above N_OUT names no slot (R56). -/
def State.outWrite (s : State) (i : Nat) (f : Bytes) : Except Fault State :=
  if s.cfg.N_OUT ≤ i then .error .storeSlotAbsent
  else .ok (s.setOut (memWrite s.block.out (i * s.cfg.C) f))

/-! ### Output events and the timer controller -/

/-- `emit E`: appends an output event to the ordered list of the current operation (R16, R87). -/
def State.emit (s : State) (e : Event) : State := { s with events := s.events ++ [e] }

/-- `emit TMR_START(T); tmr_run <- 1` (R25, R209). Whether the timer was running is not looked at (R199). -/
def State.startTimer (s : State) : State := (s.emit (.tmrStart s.cfg.T)).setTmrRun true

/-- `emit TMR_STOP; tmr_run <- 0` (R25, R209). -/
def State.stopTimer (s : State) : State := (s.emit .tmrStop).setTmrRun false

/-- The code of an event (R86). -/
def Event.code : Event → Nat
  | .sSend _ => 1
  | .rSend _ => 2
  | .rDeliver _ => 3
  | .tmrStart _ => 4
  | .tmrStop => 5

/-- The frame of an S_SEND event. -/
def sentFrame : Event → Option Bytes
  | .sSend f => some f
  | .rSend _ => none
  | .rDeliver _ => none
  | .tmrStart _ => none
  | .tmrStop => none

/-- The frame of an R_SEND event. -/
def ackedFrame : Event → Option Bytes
  | .sSend _ => none
  | .rSend f => some f
  | .rDeliver _ => none
  | .tmrStart _ => none
  | .tmrStop => none

/-- The fragment of an R_DELIVER event. -/
def deliveredFragment : Event → Option Bytes
  | .sSend _ => none
  | .rSend _ => none
  | .rDeliver p => some p
  | .tmrStart _ => none
  | .tmrStop => none

/-- What the timer does on an event: TMR_START cancels and arms, TMR_STOP cancels (R209). -/
def timerHears (armed : Bool) : Event → Bool
  | .sSend _ => armed
  | .rSend _ => armed
  | .rDeliver _ => armed
  | .tmrStart _ => true
  | .tmrStop => false

/-- The timer after the events of an operation, heard in the order emitted (R209, R227). -/
def timerAfter (armed : Bool) (events : List Event) : Bool := events.foldl timerHears armed

/-! ### Responses: ending an operation (R83 to R85, R190) -/

/-- The code of a status (R84). -/
def Status.code : Status → BitVec 4
  | .ok => 0x0#4
  | .corrupt => 0x1#4
  | .outOfOrder => 0x2#4
  | .notOpen => 0x3#4
  | .contract => 0x4#4
  | .illegalCmd => 0x5#4
  | .allocFail => 0x6#4
  | .aborted => 0x7#4

/-- The code of a cause (R85). -/
def Cause.code : Cause → BitVec 2
  | .lenRange => 0b01#2
  | .seqDigit => 0b10#2
  | .cksum => 0b11#2

/-- The `cause` field of a response: 00 where there is no cause (R83). -/
def causeField : Option Cause → BitVec 2
  | none => 0b00#2
  | some c => c.code

/-- The response word `{status[31:28], cause[27:26], 00000, seq[20:0]}` (R83). -/
def responseWord (st : Status) (cause : Option Cause) (seq : SeqNum) : Word :=
  st.code ++ causeField cause ++ 0#5 ++ seq

/-- The response word and DOUT of the current operation. -/
def State.respond (s : State) (rsp : Word) (dout : Bytes) : State := { s with rsp := rsp, dout := dout }

/-- `return OK` with the response's `seq` field and DOUT (R16, R83). -/
def State.finish (s : State) (seq : SeqNum) (dout : Bytes) : Outcome :=
  .next (s.respond (responseWord .ok none seq) dout)

/-- Taking an exception: `raise S(info)` ends the operation with a status other than OK, its cause and `seq`
recorded in the response word, DOUT empty (R16, R83, R190). Nothing is saved and control goes nowhere: the response
is all there is (R201, R202), and there is no return operation (R203). The state given is the one the operation
started from, ALLOC_FAIL's `abort` apart. -/
def State.raise (s : State) (st : Status) (cause : Option Cause) (seq : SeqNum) : Outcome :=
  .next (s.respond (responseWord st cause seq) [])

/-- The event list of a command starts empty (R32, R87). -/
def State.clearEvents (s : State) : State := { s with events := [] }

/-- A store access that stopped ends the step with its fault; otherwise the operation goes on. -/
def orFault (r : Except Fault State) (body : State → Outcome) : Outcome :=
  match r with
  | .error e => .fault e
  | .ok s => body s

/-- ILLEGAL_CMD: the answer to a word that selects no operation, in every state, `abort` = 1 included; DIN is
ignored (R81, R195, R200). -/
def State.illegalCommand (s : State) : Outcome := s.clearEvents.raise .illegalCmd none 0#21

/-! ### The command port and reset -/

/-- DIN of the command that is about to run (R61). -/
def State.latchDin (s : State) (din : Bytes) : State := { s with din := din }

/-- Takes the first input off the list of what the outside world presents. -/
def State.withInputs (s : State) (inputs : List Input) : State := { s with inputs := inputs }

/-- Reset: every register as in R221, no slot of the store holds a value (R222), no event (R223); the constants are
those held from now on (R30). What will be presented later is not the block's, and stays. -/
def State.applyReset (s : State) (cfg : Config) : State := { State.resetWith cfg with inputs := s.inputs }

/-- Reset in the middle of an operation that would have ended in `done`: its first `emitted` events are out, the
rest and its response are lost (R220; log entry 9). -/
def State.applyResetDuring (s done : State) (emitted : Nat) (cfg : Config) : State :=
  { s.applyReset cfg with events := done.events.take emitted }

/-- The input buffer that stands beside a command word placed for a run of one word: a frame of C zero bytes, which is
well-formed (R77), for an operation that takes a frame, and the empty string for every other word
(DESIGN CHOICE, log entry 4). -/
def placedDin (cfg : Config) (w : Word) : Bytes :=
  match decode w with
  | .ok i =>
    match i.dinKind with
    | .frame => zeros cfg.C
    | .none => []
    | .payload => []
    | .message => []
  | .error _ => []

/-- Puts a command in front of what will be presented. -/
def State.present (s : State) (c : Command) : State := s.withInputs (.command c :: s.inputs)

end Sys2Proof.Machine
end

