-- ==== Sys2Proof/Machine/Flags.lean ====
section
/-! DEFINITION. The flags of the block are `s_mode`, `r_open`, `abort` and `tmr_run` (10_state.md R39): their codes and
the status outputs (R26, R31), the gating tables (41_sender.md R131, 42_receiver.md R182) and the block-wide order of
checks (60_exceptions.md R200). -/

namespace Sys2Proof.Machine

/-- The 2-bit code of `s_mode` (R26). -/
def SMode.code : SMode → BitVec 2
  | .down => 0#2
  | .opened => 1#2
  | .drain => 2#2

/-- The table of R131: whether the sender's mode serves the operation. An operation of another unit does not look at
`s_mode` (R106, R112, R182). -/
def senderServes : Instr → SMode → Bool
  | .sInit, .down => true
  | .sInit, .opened => true
  | .sInit, .drain => true
  | .sFinal, .down => false
  | .sFinal, .opened => true
  | .sFinal, .drain => true
  | .sSubmit, .down => false
  | .sSubmit, .opened => true
  | .sSubmit, .drain => false
  | .sAck, .down => false
  | .sAck, .opened => true
  | .sAck, .drain => true
  | .sTmo, .down => false
  | .sTmo, .opened => true
  | .sTmo, .drain => true
  | .enc _, _ => true
  | .dec, _ => true
  | .rInit, _ => true
  | .rFinal, _ => true
  | .rFrame, _ => true

/-- R182: whether the receiver's life-cycle bit serves the operation. An operation of another unit does not look at
`r_open`. -/
def receiverServes : Instr → Bool → Bool
  | .rInit, _ => true
  | .rFinal, rOpen => rOpen
  | .rFrame, rOpen => rOpen
  | .enc _, _ => true
  | .dec, _ => true
  | .sInit, _ => true
  | .sFinal, _ => true
  | .sSubmit, _ => true
  | .sAck, _ => true
  | .sTmo, _ => true

/-- The unit addressed is in a mode that serves the operation (R131, R182, R193). -/
def State.serves (s : State) (i : Instr) : Bool :=
  senderServes i s.block.sMode && receiverServes i s.block.rOpen

/-- The checks of R200 between decoding the word and the operation's own: `abort`, else ABORTED (R197); the mode, else
NOT_OPEN (R193). An operation that passes them runs with an empty event list. -/
def State.serve (s : State) (i : Instr) (body : State → Outcome) : Outcome :=
  if s.block.abort then s.clearEvents.raise .aborted none 0#21
  else if s.serves i then body s.clearEvents
  else s.clearEvents.raise .notOpen none 0#21

/-- The read-only status outputs, one for each register of R20 but `OUT`, of the same name and width (R31). They show
the registers between operations. -/
structure StatusOutputs where
  st_s_mode : BitVec 2
  st_base : BitVec 22
  st_next : BitVec 22
  st_out_len : BitVec 22
  st_tmr_run : BitVec 1
  st_r_open : BitVec 1
  st_expected : BitVec 22
  st_abort : BitVec 1
deriving DecidableEq, Repr

/-- What the status outputs show (R31). -/
def State.statusOutputs (s : State) : StatusOutputs :=
  { st_s_mode := s.block.sMode.code
    st_base := s.block.base
    st_next := s.block.nextSeqNum
    st_out_len := s.block.outLen
    st_tmr_run := BitVec.ofBool s.block.tmrRun
    st_r_open := BitVec.ofBool s.block.rOpen
    st_expected := s.block.expectedSeqNum
    st_abort := BitVec.ofBool s.block.abort }

/-- A session is finished: nothing more will ever be sent (R152). The host reads it from the status outputs. -/
def State.sessionFinished (s : State) : Bool :=
  s.block.sMode == .drain && s.block.base == s.block.nextSeqNum && s.block.nextSeqNum == s.block.outLen

end Sys2Proof.Machine
end

