-- ==== Sys2Proof/Machine/Frame.lean ====
section
/-! DEFINITION. The wire frame (30_encoding.md R70 to R77) and the two pure functions of the CODEC unit on it, with
the checksum and the digit converters (40_codec.md R100 to R105, R109 to R111). -/

namespace Sys2Proof.Machine

/-- `digits128(s)`: three base-128 digits, most significant first, bit 7 of each byte clear (R72, R100). -/
def digits128 (s : SeqNum) : Bytes :=
  [(s.extractLsb' 14 7).setWidth 8, (s.extractLsb' 7 7).setWidth 8, (s.extractLsb' 0 7).setWidth 8]

/-- `undigits128(b1, b2, b3)` (R101); used for bytes of at most 127 only. -/
def undigits128 (b1 b2 b3 : Byte) : SeqNum :=
  BitVec.ofNat 21 (b1.toNat * 16384 + b2.toNat * 128 + b3.toNat)

/-- `digits10(k)`: three decimal digits as plain binary values, most significant first (R73, R102). -/
def digits10 (k : Nat) : Bytes :=
  [BitVec.ofNat 8 (k / 100), BitVec.ofNat 8 (k / 10 % 10), BitVec.ofNat 8 (k % 10)]

/-- The sum of the bytes, each taken as an unsigned value (R103). -/
def byteSum : Bytes → Nat
  | [] => 0
  | b :: p => b.toNat + byteSum p

/-- `cksum(s, p) = (s + sum of p[i]) mod 1000`: the sequence number and the payload bytes and nothing else, exact
before the reduction (R103, R104). -/
def cksum (s : SeqNum) (p : Bytes) : Nat := (s.toNat + byteSum p) % 1000

/-- `encode(s, p)`: length byte, sequence digits, checksum digits, payload, zero padding up to C bytes (R70, R74,
R105). Defined for `|p| <= MP`; every caller guarantees it (R107, R135). -/
def encodeFrame (cfg : Config) (s : SeqNum) (p : Bytes) : Bytes :=
  BitVec.ofNat 8 p.length :: (digits128 s ++ digits10 (cksum s p) ++ p ++ zeros (cfg.MP - p.length))

/-- The result of `decode`: a sequence number and a payload, or a cause. A corrupt frame has neither (R109, R112). -/
inductive Decoded where
  | ok (s : SeqNum) (p : Bytes)
  | corrupt (c : Cause)
deriving DecidableEq, Repr

/-- The byte at offset i of a frame. Offsets are below C by construction (R110). -/
def byteAt (f : Bytes) (i : Nat) : Byte := f.getD i 0#8

/-- The sequence number that the digits at offsets 1 to 3 name (R109 step 3). -/
def decodedSeq (f : Bytes) : SeqNum := undigits128 (byteAt f 1) (byteAt f 2) (byteAt f 3)

/-- The payload bytes, as many as the length byte says (R109 step 3). -/
def decodedPayload (f : Bytes) : Bytes := (f.drop headerSize).take (byteAt f 0).toNat

/-- `decode(f)`: the checks in the order length, sequence digits, checksum (byte for byte), the first that fails
giving the cause (R75, R109, R111). It reads no byte at an offset of C or more (R110). -/
def decodeFrame (cfg : Config) (f : Bytes) : Decoded :=
  if cfg.MP < (byteAt f 0).toNat then .corrupt .lenRange
  else if 127 < (byteAt f 1).toNat ∨ 127 < (byteAt f 2).toNat ∨ 127 < (byteAt f 3).toNat then .corrupt .seqDigit
  else if [byteAt f 4, byteAt f 5, byteAt f 6] = digits10 (cksum (decodedSeq f) (decodedPayload f)) then
    .ok (decodedSeq f) (decodedPayload f)
  else .corrupt .cksum

end Sys2Proof.Machine
end

