-- ==== Sys2Proof/Machine/Operands.lean ====
section
/-! DEFINITION. The operands: the input buffer DIN as a frame, a payload or a message (30_encoding.md R79, 20_memory.md
R61) and the segmentation of a message into payloads (41_sender.md R134 to R136, R138). The other operand, the `seq`
field of ENC, is in the instruction (R78). -/

namespace Sys2Proof.Machine

/-- Runs an operation whose DIN is a frame. A byte string of another length "cannot be presented" (R79), so there is
no step for it (log entry 5). -/
def State.withFrame (s : State) (body : Bytes → Outcome) : Outcome :=
  if s.din.length = s.cfg.C then body s.din else .refused .dinNotAFrame

/-- `k = ceil(L / MP)`: how many payloads a message of L bytes is cut into; 0 when L = 0 (R134, R136). -/
def segmentCount (cfg : Config) (len : Nat) : Nat := (len + cfg.MP - 1) / cfg.MP

/-- Payload j of a message: `m[j * MP .. min((j + 1) * MP, |m|))` (R135). -/
def segment (cfg : Config) (m : Bytes) (j : Nat) : Bytes := (m.drop (j * cfg.MP)).take cfg.MP

/-- The payloads of a message, in order (R135). -/
def segments (cfg : Config) (m : Bytes) : List Bytes :=
  (List.range (segmentCount cfg m.length)).map (segment cfg m)

end Sys2Proof.Machine
end

