-- ==== Sys2Proof/Machine/Codec.lean ====
section
/-! DEFINITION. The operations of the CODEC unit: ENC and DEC (40_codec.md R106, R107, R112, R113). -/

namespace Sys2Proof.Machine

/-- ENC: DOUT is `encode(seq, DIN)`; a payload above MP bytes is refused with CONTRACT (R106, R107). -/
def execEnc (seq : SeqNum) (s : State) : Outcome :=
  s.serve (.enc seq) fun s =>
    if s.cfg.MP < s.din.length then s.raise .contract none 0#21
    else s.finish 0#21 (encodeFrame s.cfg seq s.din)

/-- DEC: the sequence number and payload of `decode(DIN)`, or CORRUPT with its cause (R112). -/
def execDec (s : State) : Outcome :=
  s.withFrame fun f => s.serve .dec fun s =>
    match decodeFrame s.cfg f with
    | .ok q p => s.finish q p
    | .corrupt c => s.raise .corrupt (some c) 0#21

end Sys2Proof.Machine
end

