-- ==== Sys2Proof/Machine/Receiver.lean ====
section
/-! DEFINITION. The operations of the RCV unit: R_INIT, R_FINAL and R_FRAME (42_receiver.md R170 to R182). -/

namespace Sys2Proof.Machine

/-- R_INIT: the cursor at 0, the receiver open; served whatever `r_open` is (R171). -/
def execRInit (s : State) : Outcome :=
  s.serve .rInit fun s => ((s.setExpected 0#22).setROpen true).finish 0#21 []

/-- R_FINAL: the receiver closed, the cursor left as it is (R172). -/
def execRFinal (s : State) : Outcome :=
  s.serve .rFinal fun s => (s.setROpen false).finish 0#21 []

/-- R_FRAME: an in-order frame is delivered, echoed and counted; a corrupt or out-of-order one is dropped (R173 to
R178, R180). The sequence number is compared zero-extended with the 22-bit cursor (R176). -/
def execRFrame (s : State) : Outcome :=
  s.withFrame fun f => s.serve .rFrame fun s =>
    match decodeFrame s.cfg f with
    | .corrupt c => s.raise .corrupt (some c) 0#21
    | .ok q p =>
      if q.setWidth 22 = s.block.expectedSeqNum then
        (((s.emit (.rDeliver p)).emit (.rSend f)).setExpected (s.block.expectedSeqNum + 1#22)).finish q []
      else s.raise .outOfOrder none q

end Sys2Proof.Machine
end

