-- ==== Sys2Proof/Machine/Sender.lean ====
section
/-! DEFINITION. The operations of the SND unit: S_INIT, S_FINAL, S_SUBMIT, S_ACK and S_TMO, and the pump procedure
(41_sender.md R130 to R153). -/

namespace Sys2Proof.Machine

/-- The write loop of S_SUBMIT: payload j is built into frame `i + j` of the session and stored in slot `i + j`
(R134). -/
def storeFrames : List Bytes → Nat → State → Except Fault State
  | [], _, s => .ok s
  | p :: ps, i, s =>
    match s.outWrite i (encodeFrame s.cfg (BitVec.ofNat 21 i) p) with
    | .error e => .error e
    | .ok s' => storeFrames ps (i + 1) s'

/-- One turn of pump's loop: the frame in slot `next_seq_num` is sent, after a TMR_START where this turn starts the
timer, and `next_seq_num` is raised by 1 (R140, R141). -/
def State.pumpOne (s : State) (starts : Bool) (f : Bytes) : State :=
  ((if starts then s.startTimer else s).emit (.sSend f)).setNext (s.block.nextSeqNum + 1#22)

/-- The loop of pump (R140), with the flags `was_empty` and `first` of its text (R141). Every turn moves
`next_seq_num` one nearer to `out_len`, so `fuel = out_len - next_seq_num` turns are enough (R151). The comparison
with `base + W` is on mathematical integers (R140). -/
def pumpLoop : Nat → Bool → Bool → State → Except Fault State
  | 0, _, _, s => .ok s
  | fuel + 1, wasEmpty, first, s =>
    if s.block.nextSeqNum.toNat < s.block.base.toNat + s.cfg.W ∧ s.block.nextSeqNum.toNat < s.block.outLen.toNat then
      match s.outRead s.block.nextSeqNum.toNat with
      | .error e => .error e
      | .ok f => pumpLoop fuel wasEmpty false (s.pumpOne (wasEmpty && first) f)
    else .ok s

/-- `pump()`: the sliding-window admission loop (R140, R141). -/
def pump (s : State) : Except Fault State :=
  pumpLoop (s.block.outLen.toNat - s.block.nextSeqNum.toNat) (s.block.base == s.block.nextSeqNum) true s

/-- Emits the stored frames of `n` slots from slot `i` up, in ascending order (R148, R149). -/
def sendSlots : Nat → Nat → State → Except Fault State
  | 0, _, s => .ok s
  | n + 1, i, s =>
    match s.outRead i with
    | .error e => .error e
    | .ok f => sendSlots n (i + 1) (s.emit (.sSend f))

/-- `min(max(base, s + 1), next_seq_num)`, on mathematical integers (R143). -/
def ackedBase (base next : Counter) (q : SeqNum) : Counter :=
  BitVec.ofNat 22 (min (max base.toNat (q.toNat + 1)) next.toNat)

/-- The timer action of S_ACK: stop if the window has drained, restart otherwise (R144). -/
def State.ackTimer (s : State) : State :=
  if s.block.base = s.block.nextSeqNum then s.stopTimer else s.startTimer

/-- S_INIT: an empty window, the timer stopped, mode OPEN; served in every mode (R132). -/
def execSInit (s : State) : Outcome :=
  s.serve .sInit fun s =>
    (((((s.setBase 0#22).setNext 0#22).setOutLen 0#22).stopTimer).setSMode .opened).finish 0#21 []

/-- S_FINAL: mode DRAIN and nothing else (R133). -/
def execSFinal (s : State) : Outcome :=
  s.serve .sFinal fun s => (s.setSMode .drain).finish 0#21 []

/-- S_SUBMIT: cuts the message, checks that the store has room (else ALLOC_FAIL and `abort`), stores the frames, then
pumps (R134 to R139). -/
def execSSubmit (s : State) : Outcome :=
  s.serve .sSubmit fun s =>
    if s.cfg.N_OUT < s.block.outLen.toNat + segmentCount s.cfg s.din.length then
      s.setAbort.raise .allocFail none 0#21
    else
      orFault (storeFrames (segments s.cfg s.din) s.block.outLen.toNat s) fun s1 =>
        orFault (pump (s1.setOutLen (BitVec.ofNat 22 (s.block.outLen.toNat + segmentCount s.cfg s.din.length))))
          fun s2 => s2.finish 0#21 []

/-- S_ACK: on a well-formed frame moves `base`, takes the timer action, then pumps; a corrupt one changes nothing
(R142 to R147). -/
def execSAck (s : State) : Outcome :=
  s.withFrame fun f => s.serve .sAck fun s =>
    match decodeFrame s.cfg f with
    | .corrupt c => s.raise .corrupt (some c) 0#21
    | .ok q _ =>
      orFault (pump (s.setBase (ackedBase s.block.base s.block.nextSeqNum q)).ackTimer)
        fun s1 => s1.finish q []

/-- S_TMO: restarts the timer, then resends every frame of the window `[base, next_seq_num)` (R148 to R150). -/
def execSTmo (s : State) : Outcome :=
  s.serve .sTmo fun s =>
    orFault (sendSlots (s.block.nextSeqNum.toNat - s.block.base.toNat) s.block.base.toNat s.startTimer)
      fun s1 => s1.finish 0#21 []

end Sys2Proof.Machine
end

