-- ==== Sys2Proof/Machine/Dispatch.lean ====
section
/-! DEFINITION. One arm per operation of the opcode map (30_encoding.md R80). -/

namespace Sys2Proof.Machine

def exec (i : Instr) (s : State) : Host.Outcome State Fault Refusal :=
  match i with
  | .enc seq => Sys2Proof.Machine.execEnc seq s
  | .dec => Sys2Proof.Machine.execDec s
  | .sInit => Sys2Proof.Machine.execSInit s
  | .sFinal => Sys2Proof.Machine.execSFinal s
  | .sSubmit => Sys2Proof.Machine.execSSubmit s
  | .sAck => Sys2Proof.Machine.execSAck s
  | .sTmo => Sys2Proof.Machine.execSTmo s
  | .rInit => Sys2Proof.Machine.execRInit s
  | .rFinal => Sys2Proof.Machine.execRFinal s
  | .rFrame => Sys2Proof.Machine.execRFrame s

end Sys2Proof.Machine
end

