-- ==== Sys2Proof/Machine/Step.lean ====
section
/-! DEFINITION. One step: the next thing the outside world presents is taken whole, as one atomic transition
(10_state.md R40, 20_memory.md R62, R64). -/

namespace Sys2Proof.Machine

/-- Runs one command: an illegal word is answered ILLEGAL_CMD, a legal one is executed (R81, R200). -/
def runCommand (c : Command) (s : State) : Host.Outcome State Fault Refusal :=
  match decode c.word with
  | .error _ => (s.latchDin c.din).illegalCommand
  | .ok i => exec i (s.latchDin c.din)

/-- Applies reset with the constants held from now on; a model refuses constants that are out of range (R225). -/
def runReset (cfg : Config) (s : State) : Host.Outcome State Fault Refusal :=
  if cfg.legal then .next s else .refused .configOutOfRange

/-- One atomic transition: the first input is taken. With none the block waits and keeps all state (R214, R223). -/
def step (s : State) : Host.Outcome State Fault Refusal :=
  if s.cfg.legal then
    match s.inputs with
    | [] => .next s
    | .command c :: rest => runCommand c (s.withInputs rest)
    | .reset cfg :: rest => runReset cfg ((s.withInputs rest).applyReset cfg)
    | .resetDuring c emitted cfg :: rest =>
      match runCommand c (s.withInputs rest) with
      | .next done => runReset cfg ((s.withInputs rest).applyResetDuring done emitted cfg)
      | .fault e => .fault e
      | .refused r => .refused r
  else .refused .configOutOfRange

/-- `s` with the command word whose low `nbits` bits are those of `w` presented next, beside an input buffer of the
type its operation takes (`placedDin`; log entries 3 and 4). -/
def State.withFetchWord (s : State) (nbits w : Nat) : State :=
  match tableWord nbits w with
  | none => s
  | some word => s.present ⟨word, placedDin s.cfg word⟩

end Sys2Proof.Machine
end

