-- ==== Sys2Proof/Machine/Assembler.lean ====
section
/-! DEFINITION. The assembler syntax of 30_encoding.md R88 to R90: program lines, the aliases of the source's names, the
pseudo-operation ENC_ACK, and the words and input buffers that a line stands for. Log entry 15 says what R88 leaves
open in the text of a line (spaces, also before a semicolon and inside `x".."`, blank lines, the double quote, the case of hexadecimal
digits). -/

namespace Sys2Proof.Machine

/-- A `<frame>` operand (R88). -/
inductive FrameOperand where
  /-- A `<bytes>` of exactly C bytes. -/
  | literal (b : Bytes)
  /-- `enc(<seq>, <bytes>)`: the frame of R105. -/
  | enc (seq : SeqNum) (p : Bytes)
  /-- `OUT[<n>]`: the frame most recently carried by an S_SEND event for sequence number n. -/
  | sent (n : Nat)
  /-- `ACK[<n>]`: the frame most recently carried by an R_SEND event for sequence number n. -/
  | acked (n : Nat)
deriving DecidableEq, Repr

/-- A program line (R88), with the pseudo-operation of R89. -/
inductive Line where
  | comment
  | enc (seq : SeqNum) (p : Bytes)
  /-- `ENC_ACK <seq>`, which expands to `ENC <seq>, ""` (R89). -/
  | encAck (seq : SeqNum)
  | dec (f : FrameOperand)
  | sInit
  | sFinal
  | sSubmit (m : Bytes)
  | sAck (f : FrameOperand)
  | sTmo
  | rInit
  | rFinal
  | rFrame (f : FrameOperand)
deriving DecidableEq, Repr

/-- Why a line stands for no command. -/
inductive AsmError where
  /-- The first word of the line is neither a mnemonic nor an alias. -/
  | unknownMnemonic
  /-- The operands do not have the form of R88. -/
  | badOperand
  /-- A `<seq>` of `2^21` or more. -/
  | seqOutOfRange
  /-- A `<bytes>` operand that is to be a frame and has not C bytes. -/
  | notAFrame
  /-- `enc(<seq>, <bytes>)` with more than MP bytes: R105 gives no frame. -/
  | noEncoding
  /-- `OUT[<n>]` or `ACK[<n>]` for a sequence number that no event has carried. -/
  | noSuchFrame
deriving DecidableEq, Repr

/-! ### From a line to a command (R88, R90) -/

/-- The frame carries this sequence number. -/
def carries (cfg : Config) (n : Nat) (f : Bytes) : Bool :=
  match decodeFrame cfg f with
  | .ok q _ => q.toNat == n
  | .corrupt _ => false

/-- The frame most recently carried for sequence number n; events are listed oldest first. -/
def latestFrame (cfg : Config) (n : Nat) (frames : List Bytes) : Except AsmError Bytes :=
  match frames.reverse.find? (carries cfg n) with
  | some f => .ok f
  | none => .error .noSuchFrame

/-- The frame an operand stands for, given the events of the program so far (R88). -/
def FrameOperand.resolve (cfg : Config) (trace : List Event) : FrameOperand → Except AsmError Bytes
  | .literal b => if b.length = cfg.C then .ok b else .error .notAFrame
  | .enc seq p => if p.length ≤ cfg.MP then .ok (encodeFrame cfg seq p) else .error .noEncoding
  | .sent n => latestFrame cfg n (trace.filterMap sentFrame)
  | .acked n => latestFrame cfg n (trace.filterMap ackedFrame)

/-- A command whose DIN is a frame operand. -/
def frameCommand (cfg : Config) (trace : List Event) (i : Instr) (f : FrameOperand) : Except AsmError (Option Command) :=
  match f.resolve cfg trace with
  | .ok b => .ok (some ⟨encode i, b⟩)
  | .error e => .error e

/-- The command a line stands for; a comment stands for none (R88 to R90). -/
def Line.command (cfg : Config) (trace : List Event) : Line → Except AsmError (Option Command)
  | .comment => .ok none
  | .enc seq p => .ok (some ⟨encode (.enc seq), p⟩)
  | .encAck seq => .ok (some ⟨encode (.enc seq), []⟩)
  | .dec f => frameCommand cfg trace .dec f
  | .sInit => .ok (some ⟨encode .sInit, []⟩)
  | .sFinal => .ok (some ⟨encode .sFinal, []⟩)
  | .sSubmit m => .ok (some ⟨encode .sSubmit, m⟩)
  | .sAck f => frameCommand cfg trace .sAck f
  | .sTmo => .ok (some ⟨encode .sTmo, []⟩)
  | .rInit => .ok (some ⟨encode .rInit, []⟩)
  | .rFinal => .ok (some ⟨encode .rFinal, []⟩)
  | .rFrame f => frameCommand cfg trace .rFrame f

/-! ### The text of a line (R88, R89) -/

/-- Drops leading spaces. -/
def skipSpaces : List Char → List Char
  | [] => []
  | c :: cs => if c = ' ' then skipSpaces cs else c :: cs

/-- The name at the head of the text: letters, digits and underscores. -/
def takeName : List Char → List Char × List Char
  | [] => ([], [])
  | c :: cs =>
    if c.isAlphanum || c = '_' then
      let (name, rest) := takeName cs
      (c :: name, rest)
    else ([], c :: cs)

/-- A decimal digit. -/
def decDigit (c : Char) : Option Nat :=
  if '0' ≤ c ∧ c ≤ '9' then some (c.toNat - '0'.toNat) else none

/-- A hexadecimal digit, of either case. -/
def hexDigit (c : Char) : Option Nat :=
  if '0' ≤ c ∧ c ≤ '9' then some (c.toNat - '0'.toNat)
  else if 'a' ≤ c ∧ c ≤ 'f' then some (c.toNat - 'a'.toNat + 10)
  else if 'A' ≤ c ∧ c ≤ 'F' then some (c.toNat - 'A'.toNat + 10)
  else none

/-- Reads digits of a base onto an accumulated value. -/
def takeDigits (digit : Char → Option Nat) (base : Nat) : Nat → List Char → Nat × List Char
  | acc, [] => (acc, [])
  | acc, c :: cs =>
    match digit c with
    | some d => takeDigits digit base (acc * base + d) cs
    | none => (acc, c :: cs)

/-- A number of at least one digit. -/
def takeNumber (digit : Char → Option Nat) (base : Nat) : List Char → Option (Nat × List Char)
  | [] => none
  | c :: cs =>
    match digit c with
    | some d => some (takeDigits digit base d cs)
    | none => none

/-- A decimal or `0x` hexadecimal integer. -/
def parseNumber : List Char → Option (Nat × List Char)
  | '0' :: 'x' :: cs => takeNumber hexDigit 16 cs
  | cs => takeNumber decDigit 10 cs

/-- A `<seq>`: a number in `[0, 2^21)` (R88). -/
def parseSeq (cs : List Char) : Except AsmError (SeqNum × List Char) :=
  match parseNumber cs with
  | none => .error .badOperand
  | some (n, rest) => if n < seqSpace then .ok (BitVec.ofNat 21 n, rest) else .error .seqOutOfRange

/-- The rest of a double-quoted string of printable ASCII characters, each standing for its code. -/
def takeString : List Char → Option (Bytes × List Char)
  | [] => none
  | c :: cs =>
    if c = '"' then some ([], cs)
    else if 32 ≤ c.toNat ∧ c.toNat ≤ 126 then
      match takeString cs with
      | some (b, rest) => some (BitVec.ofNat 8 c.toNat :: b, rest)
      | none => none
    else none

/-- The rest of `x"`: two-digit hexadecimal bytes separated by spaces, and a closing double quote (R88).
DESIGN CHOICE (log entry 15): exactly one space stands between two bytes, one may stand between the last byte and the
closing quote, and none before the first byte. -/
def takeHexBytes : List Char → Option (Bytes × List Char)
  | '"' :: rest => some ([], rest)
  | a :: b :: c :: cs =>
    match hexDigit a, hexDigit b with
    | some h, some l =>
      if c = '"' then some ([BitVec.ofNat 8 (h * 16 + l)], cs)
      else if c = ' ' then
        match takeHexBytes cs with
        | some (bs, rest) => some (BitVec.ofNat 8 (h * 16 + l) :: bs, rest)
        | none => none
      else none
    | _, _ => none
  | _ => none

/-- A `<bytes>` operand (R88). -/
def parseBytes : List Char → Except AsmError (Bytes × List Char)
  | '"' :: cs =>
    match takeString cs with
    | some r => .ok r
    | none => .error .badOperand
  | 'x' :: '"' :: cs =>
    match takeHexBytes cs with
    | some r => .ok r
    | none => .error .badOperand
  | _ => .error .badOperand

/-- A `<seq>`, a comma and a `<bytes>`. -/
def parseSeqBytes (cs : List Char) : Except AsmError (SeqNum × Bytes × List Char) :=
  match parseSeq (skipSpaces cs) with
  | .error e => .error e
  | .ok (seq, rest) =>
    match skipSpaces rest with
    | ',' :: rest =>
      match parseBytes (skipSpaces rest) with
      | .error e => .error e
      | .ok (p, rest) => .ok (seq, p, rest)
    | _ => .error .badOperand

/-- The number and the closing bracket of `OUT[<n>]` and `ACK[<n>]`. -/
def parseIndex (cs : List Char) : Except AsmError (Nat × List Char) :=
  match parseNumber cs with
  | some (n, ']' :: rest) => .ok (n, rest)
  | _ => .error .badOperand

/-- A `<frame>` operand (R88). -/
def parseFrame : List Char → Except AsmError (FrameOperand × List Char)
  | 'e' :: 'n' :: 'c' :: '(' :: cs =>
    match parseSeqBytes cs with
    | .error e => .error e
    | .ok (seq, p, rest) =>
      match skipSpaces rest with
      | ')' :: rest => .ok (.enc seq p, rest)
      | _ => .error .badOperand
  | 'O' :: 'U' :: 'T' :: '[' :: cs =>
    match parseIndex cs with
    | .error e => .error e
    | .ok (n, rest) => .ok (.sent n, rest)
  | 'A' :: 'C' :: 'K' :: '[' :: cs =>
    match parseIndex cs with
    | .error e => .error e
    | .ok (n, rest) => .ok (.acked n, rest)
  | cs =>
    match parseBytes cs with
    | .error e => .error e
    | .ok (b, rest) => .ok (.literal b, rest)

/-- Nothing but spaces may follow the last operand. -/
def endOfLine (l : Line) (rest : List Char) : Except AsmError Line :=
  match skipSpaces rest with
  | [] => .ok l
  | _ => .error .badOperand

/-- A line with one frame operand. -/
def frameLine (make : FrameOperand → Line) (cs : List Char) : Except AsmError Line :=
  match parseFrame (skipSpaces cs) with
  | .error e => .error e
  | .ok (f, rest) => endOfLine (make f) rest

/-- `ENC <seq>, <bytes>`. -/
def encLine (cs : List Char) : Except AsmError Line :=
  match parseSeqBytes cs with
  | .error e => .error e
  | .ok (seq, p, rest) => endOfLine (.enc seq p) rest

/-- `ENC_ACK <seq>` (R89). -/
def encAckLine (cs : List Char) : Except AsmError Line :=
  match parseSeq (skipSpaces cs) with
  | .error e => .error e
  | .ok (seq, rest) => endOfLine (.encAck seq) rest

/-- `S_SUBMIT <bytes>`. -/
def submitLine (cs : List Char) : Except AsmError Line :=
  match parseBytes (skipSpaces cs) with
  | .error e => .error e
  | .ok (m, rest) => endOfLine (.sSubmit m) rest

/-- The operation that a mnemonic, an alias or the pseudo-operation names, applied to the operands' text. The
ambiguous names `on_frame_from_link`, `init` and `finalize` are no aliases (R89). -/
def parseOperation (name : String) (cs : List Char) : Except AsmError Line :=
  if name = "ENC" ∨ name = "encode" then encLine cs
  else if name = "ENC_ACK" then encAckLine cs
  else if name = "DEC" ∨ name = "decode_and_validate" then frameLine .dec cs
  else if name = "S_INIT" then endOfLine .sInit cs
  else if name = "S_FINAL" then endOfLine .sFinal cs
  else if name = "S_SUBMIT" ∨ name = "submit" then submitLine cs
  else if name = "S_ACK" ∨ name = "on_ack" then frameLine .sAck cs
  else if name = "S_TMO" ∨ name = "on_timeout" ∨ name = "on_timer_expired" then endOfLine .sTmo cs
  else if name = "R_INIT" then endOfLine .rInit cs
  else if name = "R_FINAL" then endOfLine .rFinal cs
  else if name = "R_FRAME" ∨ name = "on_frame" then frameLine .rFrame cs
  else .error .unknownMnemonic

/-- The text of one line. A line that starts with a semicolon is a comment (R88).
DESIGN CHOICE (log entry 15): so is a line whose first character after spaces is a semicolon, and a blank one. -/
def parseLine (text : String) : Except AsmError Line :=
  match skipSpaces text.toList with
  | [] => .ok .comment
  | ';' :: _ => .ok .comment
  | cs => parseOperation (String.ofList (takeName cs).1) (takeName cs).2

/-! ### Running a program (R88: a list of commands) -/

/-- A program in the middle of its run: the block, and the events of the commands so far, oldest first (R87). -/
structure Run where
  state : State
  trace : List Event
deriving DecidableEq, Repr

/-- Why a program's run stops. -/
inductive RunStop where
  | asm (e : AsmError)
  | fault (e : Fault)
  | refused (r : Refusal)
deriving DecidableEq, Repr

/-- Issues one command and records its events after those of the earlier ones (R87). -/
def Run.issue (r : Run) (c : Command) : Except RunStop Run :=
  match step (r.state.present c) with
  | .next s => .ok { state := s, trace := r.trace ++ s.events }
  | .fault e => .error (.fault e)
  | .refused e => .error (.refused e)

/-- Runs one line of text. -/
def Run.line (r : Run) (text : String) : Except RunStop Run :=
  match parseLine text with
  | .error e => .error (.asm e)
  | .ok l =>
    match l.command r.state.cfg r.trace with
    | .error e => .error (.asm e)
    | .ok none => .ok r
    | .ok (some c) => r.issue c

/-- Runs the lines of a program in order. -/
def Run.program (r : Run) : List String → Except RunStop Run
  | [] => .ok r
  | l :: ls =>
    match r.line l with
    | .error e => .error e
    | .ok r' => r'.program ls

end Sys2Proof.Machine
end

