-- ==== Sys2Proof/Machine/Environment.lean ====
section
/-! DEFINITION. The closed system: one block used as the sender, one used as the receiver, a link, a timer service and
an upper layer (10_state.md R33, 60_exceptions.md R209, R212, R213, 70_reset_and_hazards.md R232 to R242). The
environment is no part of the block (00_scope.md R6): `step` does not use this file, and every choice the environment
has is the choice of an `Action` (log entry 16). -/

namespace Sys2Proof.Machine

/-- Two blocks and their environment. -/
structure System where
  /-- The block whose SND unit is used. -/
  snd : State
  /-- The block whose RCV unit is used. -/
  rcv : State
  /-- The timer service is counting (R212). -/
  armed : Bool
  /-- Frames in flight from S_SEND to R_FRAME (R213). -/
  dataLink : List Bytes
  /-- Frames in flight from R_SEND to S_ACK (R213). -/
  ackLink : List Bytes
  /-- Messages the upper layer has yet to submit, in order (R234). -/
  upper : List Bytes
  /-- Fragments the upper layer has been given, in order (R234). -/
  delivered : List Bytes
deriving DecidableEq, Repr

/-- What the environment can do. -/
inductive Action where
  /-- The host issues S_INIT. -/
  | initSender
  /-- The host issues R_INIT. -/
  | initReceiver
  /-- The host issues S_FINAL. -/
  | finalSender
  /-- The host issues R_FINAL. -/
  | finalReceiver
  /-- The upper layer's next message is submitted whole (R234). -/
  | submit
  /-- The timer, which is armed, expires: it disarms itself and causes one S_TMO (R209, R212). -/
  | expire
  /-- The k-th data frame in flight arrives at the receiver. -/
  | dataArrives (k : Nat)
  /-- The k-th acknowledgment in flight arrives at the sender. -/
  | ackArrives (k : Nat)
  /-- The link drops a frame (R233). -/
  | dataDropped (k : Nat)
  | ackDropped (k : Nat)
  /-- The link duplicates a frame (R233). -/
  | dataDuplicated (k : Nat)
  | ackDuplicated (k : Nat)
  /-- The link changes a frame into another of C bytes (R233). -/
  | dataCorrupted (k : Nat) (f : Bytes)
  | ackCorrupted (k : Nat) (f : Bytes)
  /-- Both ends are reset together (R237); the timer, being outside, stays as it is (R223). -/
  | resetBoth
deriving DecidableEq, Repr

/-- The dispatcher issues one command to the sender's block; the timer hears its timer events and the link takes its
frames (R227, R232, R233). None where the command cannot be presented. -/
def System.toSender (y : System) (c : Command) : Option System :=
  match step (y.snd.present c) with
  | .next t =>
    some { y with
      snd := t
      armed := timerAfter y.armed t.events
      dataLink := y.dataLink ++ t.events.filterMap sentFrame }
  | .fault _ => none
  | .refused _ => none

/-- The dispatcher issues one command to the receiver's block; the link takes its acknowledgments and the upper layer
its fragments (R232 to R234). -/
def System.toReceiver (y : System) (c : Command) : Option System :=
  match step (y.rcv.present c) with
  | .next t =>
    some { y with
      rcv := t
      ackLink := y.ackLink ++ t.events.filterMap ackedFrame
      delivered := y.delivered ++ t.events.filterMap deliveredFragment }
  | .fault _ => none
  | .refused _ => none

/-- One action of the environment; none where it has no such action to take. -/
def System.act (y : System) : Action → Option System
  | .initSender => y.toSender ⟨encode .sInit, []⟩
  | .initReceiver => y.toReceiver ⟨encode .rInit, []⟩
  | .finalSender => y.toSender ⟨encode .sFinal, []⟩
  | .finalReceiver => y.toReceiver ⟨encode .rFinal, []⟩
  | .submit =>
    match y.upper with
    | [] => none
    | m :: rest => System.toSender { y with upper := rest } ⟨encode .sSubmit, m⟩
  | .expire => if y.armed then System.toSender { y with armed := false } ⟨encode .sTmo, []⟩ else none
  | .dataArrives k =>
    match y.dataLink[k]? with
    | none => none
    | some f => System.toReceiver { y with dataLink := y.dataLink.eraseIdx k } ⟨encode .rFrame, f⟩
  | .ackArrives k =>
    match y.ackLink[k]? with
    | none => none
    | some f => System.toSender { y with ackLink := y.ackLink.eraseIdx k } ⟨encode .sAck, f⟩
  | .dataDropped k => if k < y.dataLink.length then some { y with dataLink := y.dataLink.eraseIdx k } else none
  | .ackDropped k => if k < y.ackLink.length then some { y with ackLink := y.ackLink.eraseIdx k } else none
  | .dataDuplicated k =>
    match y.dataLink[k]? with
    | none => none
    | some f => some { y with dataLink := y.dataLink ++ [f] }
  | .ackDuplicated k =>
    match y.ackLink[k]? with
    | none => none
    | some f => some { y with ackLink := y.ackLink ++ [f] }
  | .dataCorrupted k f =>
    if k < y.dataLink.length ∧ f.length = y.rcv.cfg.C then some { y with dataLink := y.dataLink.set k f } else none
  | .ackCorrupted k f =>
    if k < y.ackLink.length ∧ f.length = y.snd.cfg.C then some { y with ackLink := y.ackLink.set k f } else none
  | .resetBoth =>
    some { y with snd := y.snd.applyReset y.snd.cfg, rcv := y.rcv.applyReset y.rcv.cfg }

/-- A sequence of actions; none where one of them is not there to take. -/
def System.run (y : System) : List Action → Option System
  | [] => some y
  | a :: rest =>
    match y.act a with
    | none => none
    | some y' => y'.run rest

/-- Two blocks just reset, nothing in flight, the timer not armed, and the messages the upper layer is going to submit.
R225 asks both ends for the same C only. DESIGN CHOICE (log entry 16): W, T and N_OUT are the same at both ends too. -/
def System.start (cfg : Config) (messages : List Bytes) : System :=
  { snd := State.resetWith cfg, rcv := State.resetWith cfg, armed := false, dataLink := [], ackLink := [],
    upper := messages, delivered := [] }

/-- The run is over (R240). -/
def System.isOver (y : System) : Bool :=
  y.snd.block.base == y.snd.block.nextSeqNum && y.snd.block.nextSeqNum == y.snd.block.outLen &&
    !y.armed && y.dataLink.isEmpty && y.ackLink.isEmpty && y.upper.isEmpty

/-- An action of a link that drops, duplicates, reorders and corrupts, every corruption being one that `decode` detects
(R233, R229), in the middle of one session: no INIT and no reset (R237). -/
def Action.detectable (cfg : Config) : Action → Bool
  | .initSender => false
  | .initReceiver => false
  | .resetBoth => false
  | .dataCorrupted _ f =>
    match decodeFrame cfg f with
    | .ok _ _ => false
    | .corrupt _ => true
  | .ackCorrupted _ f =>
    match decodeFrame cfg f with
    | .ok _ _ => false
    | .corrupt _ => true
  | .finalSender => true
  | .finalReceiver => true
  | .submit => true
  | .expire => true
  | .dataArrives _ => true
  | .ackArrives _ => true
  | .dataDropped _ => true
  | .ackDropped _ => true
  | .dataDuplicated _ => true
  | .ackDuplicated _ => true

end Sys2Proof.Machine
end

