-- ==== Sys2Proof/Safety.lean ====
section
/-! DEFINITION. What the claims speak of: the frames of the store as values (20_memory.md R52), what a pump transmits
(41_sender.md R140), a well-formed frame (30_encoding.md R75), the invariant of the block (10_state.md R34 to R38,
20_memory.md R59), and the invariant of one session of the closed system (42_receiver.md R179). -/

namespace Sys2Proof.Machine

/-- The frame in slot i of the store: the bytes at addresses `i * C` to `i * C + C - 1` (R52), or none where one of
them was never written. -/
def State.slot (s : State) (i : Nat) : Option Bytes := memRead s.block.out (i * s.cfg.C) s.cfg.C

/-- The frame in slot i as a byte string. -/
def State.frameOf (s : State) (i : Nat) : Bytes := (s.slot i).getD []

/-- The S_SEND events of the `n` frames from slot i up, in ascending order (R140, R148). -/
def State.sends (s : State) (i n : Nat) : List Event :=
  (List.range' i n).map fun j => .sSend (s.frameOf j)

/-- How many frames pump transmits in this state: up to `min(base + W, out_len)` (R36, R140). -/
def State.admissible (s : State) : Nat :=
  min (s.block.base.toNat + s.cfg.W) s.block.outLen.toNat - s.block.nextSeqNum.toNat

/-- Pump transmits into an empty window, so it starts the timer (R141). -/
def State.startsWindow (s : State) : Bool :=
  s.block.base == s.block.nextSeqNum && decide (0 < s.admissible)

/-- What pump leaves: the admissible frames transmitted in ascending order, preceded by one TMR_START where the window
was empty, and `next_seq_num` raised past them (R140, R141). -/
def State.pumpResult (s : State) : State :=
  { s with
    block := { s.block with
      nextSeqNum := BitVec.ofNat 22 (s.block.nextSeqNum.toNat + s.admissible)
      tmrRun := s.block.tmrRun || s.startsWindow }
    events := s.events ++ ((if s.startsWindow then [.tmrStart s.cfg.T] else []) ++
      s.sends s.block.nextSeqNum.toNat s.admissible) }

/-- The store after the frames of a list of payloads are written to the slots from i up (R134). -/
def storedMem (cfg : Config) : List Bytes → Nat → Memory → Memory
  | [], _, m => m
  | p :: ps, i, m => storedMem cfg ps (i + 1) (memWrite m (i * cfg.C) (encodeFrame cfg (BitVec.ofNat 21 i) p))

/-- The `n` slots from i up can be read: they exist, lie below `out_len` and were written (R56, R59). -/
def State.readable (s : State) (i n : Nat) : Prop :=
  ∀ j, i ≤ j → j < i + n → s.outRead j = .ok (s.frameOf j)

/-- The state after an operation that leaves this block, answers this response word and DOUT, and has emitted these
events. The constants, what will be presented later and DIN are as before. -/
def State.answered (s : State) (b : Block) (rsp : Word) (dout : Bytes) (events : List Event) : State :=
  { s with block := b, rsp := rsp, dout := dout, events := events }

/-- The response word of a frame that `decode` calls corrupt: status CORRUPT, the cause, `seq` = 0 (R83 to R85,
R191). -/
def corruptResponse : Cause → Word
  | .lenRange => 0x14000000#32
  | .seqDigit => 0x18000000#32
  | .cksum => 0x1C000000#32

/-- The `status` field of the last response (R83). -/
def State.statusField (s : State) : BitVec 4 := s.rsp.extractLsb' 28 4

/-- The `cause` field of the last response (R83). -/
def State.causeOf (s : State) : BitVec 2 := s.rsp.extractLsb' 26 2

/-- The `zero` field of the last response (R83). -/
def State.rspZero (s : State) : BitVec 5 := s.rsp.extractLsb' 21 5

/-- The `seq` field of the last response (R83). -/
def State.rspSeq (s : State) : SeqNum := s.rsp.extractLsb' 0 21

/-- The unit an operation addresses is in no mode that serves it: the cases of R193. -/
def State.closedFor (s : State) (i : Instr) : Prop :=
  ((i = .sFinal ∨ i = .sAck ∨ i = .sTmo) ∧ s.block.sMode = .down) ∨
  (i = .sSubmit ∧ (s.block.sMode = .down ∨ s.block.sMode = .drain)) ∨
  ((i = .rFinal ∨ i = .rFrame) ∧ s.block.rOpen = false)

/-- The state with other contents in the RCV unit's registers (R170). -/
def State.withReceiver (s : State) (rOpen : Bool) (cursor : Counter) : State :=
  { s with block := { s.block with rOpen := rOpen, expectedSeqNum := cursor } }

/-- The state with other contents in the SND unit's registers and store, those of `b` (R130). -/
def State.withSender (s : State) (b : Block) : State :=
  { s with block := { s.block with
      sMode := b.sMode, base := b.base, nextSeqNum := b.nextSeqNum, outLen := b.outLen, tmrRun := b.tmrRun,
      out := b.out } }

/-- Changes the next state of an outcome, if it has one. -/
def mapNext (g : State → State) : Outcome → Outcome
  | .next s => .next (g s)
  | .fault e => .fault e
  | .refused r => .refused r

/-- An input that starts a new session or resets the block. -/
def Input.endsSession : Input → Bool
  | .command c =>
    match decode c.word with
    | .ok .sInit => true
    | _ => false
  | .reset _ => true
  | .resetDuring _ _ _ => true

/-- A well-formed frame of R75, carrying s and p: the length byte at most MP, the three sequence bytes at most 127, the
checksum bytes equal, byte for byte, to the digits of the recomputed checksum. -/
def WellFormedFrame (cfg : Config) (f : Bytes) (s : SeqNum) (p : Bytes) : Prop :=
  (byteAt f 0).toNat ≤ cfg.MP ∧
  (byteAt f 1).toNat ≤ 127 ∧ (byteAt f 2).toNat ≤ 127 ∧ (byteAt f 3).toNat ≤ 127 ∧
  s.toNat = (byteAt f 1).toNat * 16384 + (byteAt f 2).toNat * 128 + (byteAt f 3).toNat ∧
  p = (f.drop 7).take (byteAt f 0).toNat ∧
  [byteAt f 4, byteAt f 5, byteAt f 6] = digits10 (cksum s p)

/-- The invariant of a block: R34 to R38 of 10_state.md, the canonical form of the store, and that a sender in DOWN is
as reset left it (R26). It holds after reset and every step keeps it. -/
structure State.Inv (s : State) : Prop where
  /-- The constants are those of this hardware (R225). -/
  legal : s.cfg.legal = true
  /-- R34. -/
  base_le_next : s.block.base.toNat ≤ s.block.nextSeqNum.toNat
  /-- R34. -/
  next_le_len : s.block.nextSeqNum.toNat ≤ s.block.outLen.toNat
  /-- R34. -/
  len_le_depth : s.block.outLen.toNat ≤ s.cfg.N_OUT
  /-- R35. -/
  window : s.block.nextSeqNum.toNat - s.block.base.toNat ≤ s.cfg.W
  /-- R36. -/
  pumped : s.block.nextSeqNum.toNat = min (s.block.base.toNat + s.cfg.W) s.block.outLen.toNat
  /-- R37. -/
  timer : s.block.base.toNat < s.block.nextSeqNum.toNat → s.block.tmrRun = true
  /-- R38: every slot below `out_len` holds the frame that was built for it, from a payload of 1 to MP bytes (R135,
  R136). -/
  stored : ∀ i, i < s.block.outLen.toNat →
    ∃ p : Bytes, 1 ≤ p.length ∧ p.length ≤ s.cfg.MP ∧ s.slot i = some (encodeFrame s.cfg (BitVec.ofNat 21 i) p)
  /-- The store lists its bytes in canonical form. -/
  canonical : Memory.wf s.block.out
  /-- No byte outside the N_OUT slots is written (R52). -/
  inStore : ∀ x ∈ s.block.out, x.1 < s.cfg.N_OUT * s.cfg.C
  /-- R27. -/
  cursor : s.block.expectedSeqNum.toNat ≤ 2 ^ 21
  /-- In DOWN no session exists, so nothing was stored, asked for or aborted (R26, R29, R132). -/
  fresh : s.block.sMode = .down →
    s.block.outLen = 0#22 ∧ s.block.tmrRun = false ∧ s.block.abort = false

/-- The payloads of the frames of the session, in order of sequence number (R134). -/
def State.storedPayloads (s : State) : List Bytes :=
  (List.range s.block.outLen.toNat).map fun i => decodedPayload (s.frameOf i)

/-- The invariant of one session of the closed system whose upper layer submits `messages`, over a link whose
corruptions `decode` detects (R179, R233, R238; the environment is log entry 16's). -/
structure System.Inv (messages : List Bytes) (y : System) : Prop where
  /-- The sender's block meets R34 to R38. -/
  sender : y.snd.Inv
  /-- The receiver's block meets R34 to R38. -/
  receiver : y.rcv.Inv
  /-- Both ends have the same constants: C by R225, W, T and N_OUT by DESIGN CHOICE (log entry 16). -/
  sameConstants : y.rcv.cfg = y.snd.cfg
  /-- No frame counts as acknowledged that the receiver has not accepted (R143). -/
  base_le_cursor : y.snd.block.base.toNat ≤ y.rcv.block.expectedSeqNum.toNat
  /-- No frame is accepted that was not transmitted (R176). -/
  cursor_le_next : y.rcv.block.expectedSeqNum.toNat ≤ y.snd.block.nextSeqNum.toNat
  /-- A data frame in flight has C bytes, and is corrupt or the stored frame of a number below `next_seq_num`. -/
  dataInFlight : ∀ f ∈ y.dataLink, f.length = y.snd.cfg.C ∧ ∀ q p, decodeFrame y.snd.cfg f = .ok q p →
    q.toNat < y.snd.block.nextSeqNum.toNat ∧ f = y.snd.frameOf q.toNat
  /-- An acknowledgment in flight has C bytes, and is corrupt or numbered below the cursor. -/
  acksInFlight : ∀ f ∈ y.ackLink, f.length = y.snd.cfg.C ∧ ∀ q p, decodeFrame y.snd.cfg f = .ok q p →
    q.toNat < y.rcv.block.expectedSeqNum.toNat
  /-- What was delivered is the payloads of the stored frames below the cursor, in order, each once (R179). -/
  deliveredInOrder : y.delivered = y.snd.storedPayloads.take y.rcv.block.expectedSeqNum.toNat
  /-- The stored payloads are the beginning of the submission. -/
  storedIsSubmitted : y.snd.storedPayloads.flatten <+: messages.flatten
  /-- While submissions are served, what is not stored yet is what the upper layer has yet to submit (R135). -/
  restIsToCome : y.snd.block.sMode = .opened → y.snd.block.abort = false →
    y.snd.storedPayloads.flatten ++ y.upper.flatten = messages.flatten

end Sys2Proof.Machine
end

