-- ==== Sys2Proof/Certificates/Slice0/Obligations.lean ====
section
/-! DEFINITION. The statements for the provers. Each docstring names the rule of spec/ it formalises. -/

open Sys2Proof Sys2Proof.Machine

/-! ### Command words (30_encoding.md R78 to R82, R90) -/

/-- R78, R80, R81, R90: every operation has exactly one command word, and every legal word exactly one operation. -/
def Obligations.DecodeInvertsEncode : Prop :=
  ∀ (w : Word) (i : Instr), decode w = .ok i ↔ encode i = w

/-- R80: a word selects a row of the opcode map when `(cmd AND mask) = match`. -/
def Obligations.DecoderFollowsOpcodeMap : Prop :=
  ∀ row ∈ opcodeMap, ∀ w : Word,
    row.selects w = true ↔ ∃ i, decode w = .ok i ∧ i.mnemonic = row.mnemonic

/-- R81, R195: `op` 0x0 or 0xB to 0xF, a `zero` bit set, or `seq` set with `op` other than ENC's: ILLEGAL_CMD in every
state of the block (`abort` = 1 included), nothing changed, no event, DIN ignored. -/
def Obligations.IllegalWordAnswersIllegalCmd : Prop :=
  ∀ (s : State) (c : Command) (rest : List Input),
    s.cfg.legal = true → s.inputs = .command c :: rest →
    (opField c.word = 0x0#4 ∨ 0xB ≤ (opField c.word).toNat ∨ zeroField c.word ≠ 0#7 ∨
      (opField c.word ≠ 0x1#4 ∧ seqField c.word ≠ 0#21)) →
    step s = .next ({ s with inputs := rest, din := c.din }.answered s.block 0x50000000#32 [] [])

/-- R80, R90: words written out from the encodings of the opcode map, one an operation. -/
def Obligations.WordsOfTheMapDecode : Prop :=
  decode 0x10000005#32 = .ok (.enc 5#21) ∧ decode 0x101FFFFF#32 = .ok (.enc 2097151#21) ∧
  decode 0x20000000#32 = .ok .dec ∧ decode 0x30000000#32 = .ok .sInit ∧ decode 0x40000000#32 = .ok .sFinal ∧
  decode 0x50000000#32 = .ok .sSubmit ∧ decode 0x60000000#32 = .ok .sAck ∧ decode 0x70000000#32 = .ok .sTmo ∧
  decode 0x80000000#32 = .ok .rInit ∧ decode 0x90000000#32 = .ok .rFinal ∧ decode 0xA0000000#32 = .ok .rFrame

/-- R40, R64: a step takes the first command the dispatcher presents and runs the operation its word decodes to, on the
state with that command taken off and its DIN in the input buffer (the ports are the model's own, log entries 2 and 3).
-/
def Obligations.StepRunsTheDecodedOperation : Prop :=
  ∀ (s : State) (c : Command) (rest : List Input) (i : Instr),
    s.cfg.legal = true → s.inputs = .command c :: rest → decode c.word = .ok i →
    step s = exec i { s with inputs := rest, din := c.din }

/-- R214, R223: with nothing presented the block waits and keeps all state (log entry 3 says that a step then answers
the same state). -/
def Obligations.IdleBlockKeepsItsState : Prop :=
  ∀ s : State, s.cfg.legal = true → s.inputs = [] → step s = .next s

/-! ### Reset, the invariant, totality -/

/-- R221: the registers after reset, whatever they were; and nothing but reset clears `abort` or returns `s_mode` to
DOWN. -/
def Obligations.ResetClearsTheRegistersAndAloneClearsAbort : Prop :=
  (∀ (s : State) (cfg : Config) (rest : List Input),
    s.cfg.legal = true → cfg.legal = true → s.inputs = .reset cfg :: rest →
    ∃ t, step s = .next t ∧ t.cfg = cfg ∧ t.events = [] ∧
      t.block.sMode = .down ∧ t.block.base = 0#22 ∧ t.block.nextSeqNum = 0#22 ∧ t.block.outLen = 0#22 ∧
      t.block.tmrRun = false ∧ t.block.rOpen = false ∧ t.block.expectedSeqNum = 0#22 ∧ t.block.abort = false) ∧
  (∀ (s t : State) (c : Command) (rest : List Input),
    s.inputs = .command c :: rest → step s = .next t →
    (s.block.abort = true → t.block.abort = true) ∧ (t.block.sMode = .down → s.block.sMode = .down))

/-- R41: the state of the block right after reset, for any constants; the model gives no value to any slot of the store
(log entry 7). -/
def Obligations.ResetStateOfTheBlock : Prop :=
  ∀ cfg : Config,
    (State.resetWith cfg).statusOutputs = ⟨0#2, 0#22, 0#22, 0#22, 0#1, 0#1, 0#22, 0#1⟩ ∧
    (State.resetWith cfg).events = [] ∧ ∀ a, readByte (State.resetWith cfg).block.out a = none

/-- R220 (log entry 9): reset in the middle of an operation leaves the reset state, and of the operation only the events
it had already emitted. -/
def Obligations.ResetCutsAnOperationShort : Prop :=
  ∀ (s done : State) (c : Command) (n : Nat) (cfg : Config) (rest : List Input),
    s.inputs = .resetDuring c n cfg :: rest → cfg.legal = true →
    step { s with inputs := .command c :: rest } = .next done →
    step s = .next { State.resetWith cfg with inputs := rest, events := done.events.take n }

/-- R34 to R38: the invariant holds after reset, for any legal constants. Its clauses on the listed bytes of the store
are the model's (log entry 7). -/
def Obligations.InvHoldsAtReset : Prop :=
  State.reset.Inv ∧ ∀ cfg : Config, cfg.legal = true → (State.resetWith cfg).Inv

/-- R34 to R38, R52, R56: every step, reset included, keeps the invariant. -/
def Obligations.EveryStepKeepsInv : Prop :=
  ∀ s t : State, s.Inv → step s = .next t → t.Inv

/-- R40, R56, R59: in a state that meets the invariant every command that can be presented has a result; in particular
no slot is read that was not written. -/
def Obligations.EveryCommandHasAResult : Prop :=
  ∀ (s : State) (c : Command) (rest : List Input), s.Inv → s.inputs = .command c :: rest →
    (∀ i, decode c.word = .ok i → i.wellFormed s.cfg c.din = true) → ∃ t, step s = .next t

/-! ### Statuses (60_exceptions.md R190 to R203) -/

/-- R201: a status other than OK and ALLOC_FAIL leaves the state of the block bit for bit and no event; ALLOC_FAIL
changes `abort` alone. -/
def Obligations.StatusesArePrecise : Prop :=
  ∀ (s t : State) (c : Command) (rest : List Input), s.inputs = .command c :: rest → step s = .next t →
    (t.statusField ≠ 0x0#4 → t.statusField ≠ 0x6#4 → t.block = s.block ∧ t.events = []) ∧
    (t.statusField = 0x6#4 →
      s.block.abort = false ∧ t.block = { s.block with abort := true } ∧ t.events = [])

/-- R83: the fields of the response word, and DOUT. -/
def Obligations.ResponseWordHasTheFormatRsp : Prop :=
  ∀ (i : Instr) (s t : State), exec i s = .next t →
    t.rspZero = 0#5 ∧ t.statusField.toNat ≤ 7 ∧ (t.causeOf = 0#2 ↔ t.statusField ≠ 0x1#4) ∧
    (∀ q p, i.dinKind = .frame → decodeFrame s.cfg s.din = .ok q p →
      (t.statusField = 0x0#4 ∨ t.statusField = 0x2#4) → t.rspSeq = q) ∧
    ((¬ ∃ q p, i.dinKind = .frame ∧ decodeFrame s.cfg s.din = .ok q p ∧
      (t.statusField = 0x0#4 ∨ t.statusField = 0x2#4)) → t.rspSeq = 0#21) ∧
    (∀ q, i = .enc q → t.statusField = 0x0#4 → t.dout = encodeFrame s.cfg q s.din) ∧
    (∀ q p, i = .dec → decodeFrame s.cfg s.din = .ok q p → t.statusField = 0x0#4 → t.dout = p) ∧
    (¬ (t.statusField = 0x0#4 ∧ i.hwUnit = .codec) → t.dout = [])

/-- R197: while `abort` = 1 every legal command answers ABORTED and changes nothing. -/
def Obligations.AbortedBlockRefusesEveryOperation : Prop :=
  ∀ (i : Instr) (s : State), s.block.abort = true → i.wellFormed s.cfg s.din = true →
    exec i s = .next (s.answered s.block 0x70000000#32 [] [])

/-- R131, R193: NOT_OPEN, with nothing changed and no event, in the cases of R193 and in no other. -/
def Obligations.NotOpenExactlyWhereTheUnitIsClosed : Prop :=
  ∀ (i : Instr) (s : State), s.block.abort = false → i.wellFormed s.cfg s.din = true →
    (s.closedFor i → exec i s = .next (s.answered s.block 0x30000000#32 [] [])) ∧
    (∀ t, exec i s = .next t → t.statusField = 0x3#4 → s.closedFor i)

/-- R202: `abort` goes from 0 to 1 only in S_SUBMIT, by ALLOC_FAIL, and no event is emitted. -/
def Obligations.AbortIsEnteredOnlyByAllocFail : Prop :=
  ∀ (s t : State) (c : Command) (rest : List Input), s.inputs = .command c :: rest → step s = .next t →
    s.block.abort = false → t.block.abort = true →
    decode c.word = .ok .sSubmit ∧ t.statusField = 0x6#4 ∧ t.events = []

/-! ### The CODEC unit (40_codec.md) -/

/-- R106: ENC answers OK with the encoded frame, whatever the modes; no state changed, no event. -/
def Obligations.EncAnswersTheEncodedFrame : Prop :=
  ∀ (q : SeqNum) (s : State), s.block.abort = false → s.din.length ≤ s.cfg.MP →
    exec (.enc q) s = .next (s.answered s.block 0x00000000#32 (encodeFrame s.cfg q s.din) [])

/-- R107: ENC with a payload above MP bytes answers CONTRACT, DOUT empty, nothing changed. -/
def Obligations.EncOverlongPayloadAnswersContract : Prop :=
  ∀ (q : SeqNum) (s : State), s.block.abort = false → s.cfg.MP < s.din.length →
    exec (.enc q) s = .next (s.answered s.block 0x40000000#32 [] [])

/-- R112, R113: DEC answers the sequence number and payload of `decode`, or CORRUPT with its cause; no state changed, no
event, in every mode. -/
def Obligations.DecAnswersWhatDecodeFinds : Prop :=
  ∀ s : State, s.block.abort = false → s.din.length = s.cfg.C →
    (∀ q p, decodeFrame s.cfg s.din = .ok q p →
      exec .dec s = .next (s.answered s.block (q.setWidth 32) p [])) ∧
    (∀ c, decodeFrame s.cfg s.din = .corrupt c →
      exec .dec s = .next (s.answered s.block (corruptResponse c) [] []))

/-- R79 (log entry 5): a byte string that is not C bytes cannot be presented as a frame; the model has no step. -/
def Obligations.FrameOfAnotherLengthIsNoCommand : Prop :=
  ∀ (i : Instr) (s : State), i.dinKind = .frame → s.din.length ≠ s.cfg.C →
    exec i s = .refused .dinNotAFrame

/-- R75, R109: `decode` returns Ok exactly for well-formed frames, with the sequence number and payload they carry. -/
def Obligations.DecodeAcceptsExactlyWellFormedFrames : Prop :=
  ∀ (cfg : Config) (f : Bytes) (q : SeqNum) (p : Bytes),
    decodeFrame cfg f = .ok q p ↔ WellFormedFrame cfg f q p

/-- R109, R111: the cause reported is the first in the order LEN_RANGE, SEQ_DIGIT, CKSUM. -/
def Obligations.DecodeReportsTheFirstDefect : Prop :=
  ∀ (cfg : Config) (f : Bytes),
    (decodeFrame cfg f = .corrupt .lenRange ↔ cfg.MP < (byteAt f 0).toNat) ∧
    (decodeFrame cfg f = .corrupt .seqDigit ↔ (byteAt f 0).toNat ≤ cfg.MP ∧
      (127 < (byteAt f 1).toNat ∨ 127 < (byteAt f 2).toNat ∨ 127 < (byteAt f 3).toNat)) ∧
    (decodeFrame cfg f = .corrupt .cksum ↔ (byteAt f 0).toNat ≤ cfg.MP ∧
      ((byteAt f 1).toNat ≤ 127 ∧ (byteAt f 2).toNat ≤ 127 ∧ (byteAt f 3).toNat ≤ 127) ∧
      ∀ q p, q.toNat = (byteAt f 1).toNat * 16384 + (byteAt f 2).toNat * 128 + (byteAt f 3).toNat →
        p = (f.drop 7).take (byteAt f 0).toNat →
        [byteAt f 4, byteAt f 5, byteAt f 6] ≠ digits10 (cksum q p))

/-- R70, R72 to R74, R105: the layout of an encoded frame, byte by byte. -/
def Obligations.EncodedFrameHasTheWireLayout : Prop :=
  ∀ (cfg : Config) (q : SeqNum) (p : Bytes), cfg.legal = true → p.length ≤ cfg.MP →
    (encodeFrame cfg q p).length = cfg.C ∧
    (byteAt (encodeFrame cfg q p) 0).toNat = p.length ∧
    (byteAt (encodeFrame cfg q p) 1).toNat = q.toNat / 16384 ∧
    (byteAt (encodeFrame cfg q p) 2).toNat = q.toNat / 128 % 128 ∧
    (byteAt (encodeFrame cfg q p) 3).toNat = q.toNat % 128 ∧
    (byteAt (encodeFrame cfg q p) 4).toNat = (q.toNat + (p.map BitVec.toNat).sum) % 1000 / 100 ∧
    (byteAt (encodeFrame cfg q p) 5).toNat = (q.toNat + (p.map BitVec.toNat).sum) % 1000 / 10 % 10 ∧
    (byteAt (encodeFrame cfg q p) 6).toNat = (q.toNat + (p.map BitVec.toNat).sum) % 1000 % 10 ∧
    ((encodeFrame cfg q p).drop 7).take p.length = p ∧
    ∀ j, 7 + p.length ≤ j → j < cfg.C → (encodeFrame cfg q p)[j]? = some 0#8

/-- R114: decoding an encoded frame gives the sequence number and the payload back. -/
def Obligations.DecodeOfEncodeReturnsTheOperands : Prop :=
  ∀ (cfg : Config) (q : SeqNum) (p : Bytes), cfg.legal = true → p.length ≤ cfg.MP →
    decodeFrame cfg (encodeFrame cfg q p) = .ok q p

/-- R115: a frame that differs from a well-formed one in exactly one payload or checksum byte (offsets 4 to
`6 + f[0]`) is found corrupt, cause CKSUM; and only a frame that is itself well-formed passes. -/
def Obligations.SingleByteCorruptionIsDetected : Prop :=
  (∀ (cfg : Config) (f : Bytes) (q : SeqNum) (p : Bytes) (i : Nat) (b : Byte),
    f.length = cfg.C → decodeFrame cfg f = .ok q p → 4 ≤ i → i < 7 + (byteAt f 0).toNat → i < cfg.C →
    b ≠ byteAt f i → decodeFrame cfg (f.set i b) = .corrupt .cksum) ∧
  (∀ (cfg : Config) (g : Bytes) (q : SeqNum) (p : Bytes), decodeFrame cfg g = .ok q p → WellFormedFrame cfg g q p)

/-- R116: swapping two payload bytes is a corruption the checksum cannot see. -/
def Obligations.SwappedPayloadBytesGoUndetected : Prop :=
  ∀ (cfg : Config) (f : Bytes) (q : SeqNum) (p : Bytes) (i j : Nat),
    f.length = cfg.C → decodeFrame cfg f = .ok q p → i < p.length → j < p.length →
    decodeFrame cfg ((f.set (7 + i) (byteAt f (7 + j))).set (7 + j) (byteAt f (7 + i))) =
      .ok q ((p.set i (byteAt p j)).set j (byteAt p i))

/-- R74, R110, R117: `decode` reads the header and the `f[0]` payload bytes and nothing else; padding is neither read
nor checked. -/
def Obligations.DecodeIgnoresThePadding : Prop :=
  ∀ (cfg : Config) (f g : Bytes), f.length = cfg.C → g.length = cfg.C →
    f.take (7 + (byteAt f 0).toNat) = g.take (7 + (byteAt f 0).toNat) → decodeFrame cfg f = decodeFrame cfg g

/-- R77: the frame of C zero bytes is well-formed; it is `encode(0, "")`. -/
def Obligations.AllZeroFrameIsWellFormed : Prop :=
  ∀ cfg : Config, cfg.legal = true →
    zeros cfg.C = encodeFrame cfg 0#21 [] ∧ WellFormedFrame cfg (zeros cfg.C) 0#21 [] ∧
    decodeFrame cfg (zeros cfg.C) = .ok 0#21 []

/-! ### The SND unit (41_sender.md) -/

/-- R132: S_INIT in every mode: an empty window, one TMR_STOP, mode OPEN; `abort` and the receiver untouched. That the
bytes of the store are left as they were is the model's choice (log entry 18): R51 says that S_INIT need not erase
them. -/
def Obligations.SInitCreatesAnEmptyWindow : Prop :=
  ∀ s : State, s.block.abort = false →
    exec .sInit s = .next (s.answered
      { s.block with
        sMode := .opened, base := 0#22, nextSeqNum := 0#22, outLen := 0#22, tmrRun := false }
      0x00000000#32 [] [.tmrStop])

/-- R133: S_FINAL in OPEN or DRAIN writes `s_mode <- DRAIN` and nothing else; in DOWN it answers NOT_OPEN. -/
def Obligations.SFinalOnlyDrains : Prop :=
  ∀ s : State, s.block.abort = false →
    (s.block.sMode = .opened ∨ s.block.sMode = .drain →
      exec .sFinal s = .next (s.answered { s.block with sMode := .drain } 0x00000000#32 [] [])) ∧
    (s.block.sMode = .down → exec .sFinal s = .next (s.answered s.block 0x30000000#32 [] []))

/-- R134, R139 to R141: S_SUBMIT stores one frame a payload in the slots from `out_len` up, touches no other byte of the
store, and transmits what the window has room for, preceded by one TMR_START if the window was empty. -/
def Obligations.SubmitStoresTheFramesAndPumps : Prop :=
  ∀ s : State, s.Inv → s.block.abort = false → s.block.sMode = .opened →
    s.block.outLen.toNat + segmentCount s.cfg s.din.length ≤ s.cfg.N_OUT →
    ∃ t, exec .sSubmit s = .next t ∧
      t.block.outLen.toNat = s.block.outLen.toNat + segmentCount s.cfg s.din.length ∧
      (∀ j, j < segmentCount s.cfg s.din.length → t.slot (s.block.outLen.toNat + j) =
        some (encodeFrame s.cfg (BitVec.ofNat 21 (s.block.outLen.toNat + j)) (segment s.cfg s.din j))) ∧
      (∀ a, (a < s.block.outLen.toNat * s.cfg.C ∨
          (s.block.outLen.toNat + segmentCount s.cfg s.din.length) * s.cfg.C ≤ a) →
        readByte t.block.out a = readByte s.block.out a) ∧
      t.block.nextSeqNum.toNat = min (s.block.base.toNat + s.cfg.W) t.block.outLen.toNat ∧
      t.block.tmrRun = (s.block.tmrRun ||
        (decide (s.block.base = s.block.nextSeqNum) &&
          decide (s.block.nextSeqNum.toNat < t.block.nextSeqNum.toNat))) ∧
      t.block = { s.block with
        outLen := t.block.outLen, out := t.block.out, nextSeqNum := t.block.nextSeqNum,
        tmrRun := t.block.tmrRun } ∧
      t = s.answered t.block 0x00000000#32 []
        ((if s.block.base = s.block.nextSeqNum ∧ s.block.nextSeqNum.toNat < t.block.nextSeqNum.toNat then
            [.tmrStart s.cfg.T] else []) ++
          t.sends s.block.nextSeqNum.toNat (t.block.nextSeqNum.toNat - s.block.nextSeqNum.toNat))

/-- R137, R196: a message that the store has no room for sets `abort`, answers ALLOC_FAIL and changes nothing else; no
event. -/
def Obligations.SubmitWithoutRoomOnlyAborts : Prop :=
  ∀ s : State, s.block.abort = false → s.block.sMode = .opened →
    s.cfg.N_OUT < s.block.outLen.toNat + segmentCount s.cfg s.din.length →
    exec .sSubmit s = .next (s.answered { s.block with abort := true } 0x60000000#32 [] [])

/-- R134, R135, R138: `k = ceil(|m| / MP)` payloads, every one but the last of exactly MP bytes, the last of
`|m| - (k - 1) * MP` bytes, between 1 and MP; together, in order, they are the message. -/
def Obligations.SegmentsAreMaximalAndMakeTheMessage : Prop :=
  ∀ (cfg : Config) (m : Bytes), cfg.legal = true →
    (segments cfg m).length = segmentCount cfg m.length ∧
    m.length ≤ segmentCount cfg m.length * cfg.MP ∧
    segmentCount cfg m.length * cfg.MP < m.length + cfg.MP ∧
    (segments cfg m).flatten = m ∧
    (∀ j, j + 1 < segmentCount cfg m.length → (segment cfg m j).length = cfg.MP) ∧
    (0 < segmentCount cfg m.length →
      (segment cfg m (segmentCount cfg m.length - 1)).length =
        m.length - (segmentCount cfg m.length - 1) * cfg.MP ∧
      1 ≤ (segment cfg m (segmentCount cfg m.length - 1)).length ∧
      (segment cfg m (segmentCount cfg m.length - 1)).length ≤ cfg.MP)

/-- R136: a message of length 0 produces no frame and no event; OK. -/
def Obligations.EmptyMessageProducesNothing : Prop :=
  ∀ s : State, s.Inv → s.block.abort = false → s.block.sMode = .opened → s.din = [] →
    exec .sSubmit s = .next (s.answered s.block 0x00000000#32 [] [])

/-- R142 to R145: a well-formed ack moves `base` to `min(max(base, s + 1), next_seq_num)`, stops the timer if the window
has drained and restarts it otherwise, then transmits every buffered frame the window has room for, after a TMR_START
if the window had drained. -/
def Obligations.AckMovesBaseThenTimerThenPumps : Prop :=
  ∀ (s : State) (q : SeqNum) (p : Bytes), s.Inv → s.block.abort = false →
    (s.block.sMode = .opened ∨ s.block.sMode = .drain) → s.din.length = s.cfg.C →
    decodeFrame s.cfg s.din = .ok q p →
    ∃ t, exec .sAck s = .next t ∧
      t.block.base.toNat = min (max s.block.base.toNat (q.toNat + 1)) s.block.nextSeqNum.toNat ∧
      t.block.nextSeqNum.toNat = min (t.block.base.toNat + s.cfg.W) s.block.outLen.toNat ∧
      t.block.tmrRun = (decide (t.block.base ≠ s.block.nextSeqNum) ||
        decide (s.block.nextSeqNum.toNat < t.block.nextSeqNum.toNat)) ∧
      t.block = { s.block with
        base := t.block.base, nextSeqNum := t.block.nextSeqNum, tmrRun := t.block.tmrRun } ∧
      t = s.answered t.block (q.setWidth 32) []
        ((if t.block.base = s.block.nextSeqNum then
            (if s.block.nextSeqNum.toNat < t.block.nextSeqNum.toNat then [.tmrStop, .tmrStart s.cfg.T]
             else [.tmrStop])
          else [.tmrStart s.cfg.T]) ++
          s.sends s.block.nextSeqNum.toNat (t.block.nextSeqNum.toNat - s.block.nextSeqNum.toNat))

/-- R146: an ack that fails `decode` changes nothing: no register, no timer event, no transmission. -/
def Obligations.CorruptAckChangesNothing : Prop :=
  ∀ (s : State) (c : Cause), s.block.abort = false →
    (s.block.sMode = .opened ∨ s.block.sMode = .drain) → s.din.length = s.cfg.C →
    decodeFrame s.cfg s.din = .corrupt c →
    exec .sAck s = .next (s.answered s.block (corruptResponse c) [] [])

/-- R147: (a) an ack with `s + 1 <= base` leaves `base` and only stops (empty window) or restarts the timer; (b) an ack
with `s >= next_seq_num` drains the window and admits up to W buffered frames. -/
def Obligations.AckOutsideTheWindowIsClamped : Prop :=
  ∀ (s : State) (q : SeqNum) (p : Bytes), s.Inv → s.block.abort = false →
    (s.block.sMode = .opened ∨ s.block.sMode = .drain) → s.din.length = s.cfg.C →
    decodeFrame s.cfg s.din = .ok q p →
    (q.toNat + 1 ≤ s.block.base.toNat →
      exec .sAck s = .next (s.answered
        { s.block with tmrRun := decide (s.block.base ≠ s.block.nextSeqNum) } (q.setWidth 32) []
        [if s.block.base = s.block.nextSeqNum then .tmrStop else .tmrStart s.cfg.T])) ∧
    (s.block.nextSeqNum.toNat ≤ q.toNat →
      ∃ t, exec .sAck s = .next t ∧ t.block.base = s.block.nextSeqNum ∧
        t.block.nextSeqNum.toNat = min (s.block.nextSeqNum.toNat + s.cfg.W) s.block.outLen.toNat ∧
        t.events = .tmrStop ::
          ((if s.block.nextSeqNum.toNat < t.block.nextSeqNum.toNat then [.tmrStart s.cfg.T] else []) ++
            s.sends s.block.nextSeqNum.toNat (t.block.nextSeqNum.toNat - s.block.nextSeqNum.toNat)))

/-- R148: S_TMO restarts the timer, then resends exactly the stored frames of `[base, next_seq_num)` in ascending order;
it changes no state but `tmr_run`. -/
def Obligations.TimeoutResendsTheWholeWindow : Prop :=
  ∀ s : State, s.Inv → s.block.abort = false → (s.block.sMode = .opened ∨ s.block.sMode = .drain) →
    exec .sTmo s = .next (s.answered { s.block with tmrRun := true } 0x00000000#32 []
      (.tmrStart s.cfg.T ::
        s.sends s.block.base.toNat (s.block.nextSeqNum.toNat - s.block.base.toNat)))

/-- R150: S_TMO with an empty window emits TMR_START alone and leaves `tmr_run` = 1, whatever `tmr_run` was. -/
def Obligations.TimeoutOfAnEmptyWindowRestartsTheTimer : Prop :=
  ∀ s : State, s.block.abort = false → (s.block.sMode = .opened ∨ s.block.sMode = .drain) →
    s.block.base = s.block.nextSeqNum →
    exec .sTmo s = .next (s.answered { s.block with tmrRun := true } 0x00000000#32 [] [.tmrStart s.cfg.T])

/-- R58, R149: every frame sent is the stored frame of a sequence number of the window after the operation, never
rebuilt. -/
def Obligations.EveryFrameSentIsTheStoredFrame : Prop :=
  ∀ (i : Instr) (s t : State), s.Inv → exec i s = .next t → ∀ f, Event.sSend f ∈ t.events →
    ∃ k, t.block.base.toNat ≤ k ∧ k < t.block.nextSeqNum.toNat ∧ t.slot k = some f ∧
      ∃ p, decodeFrame t.cfg f = .ok (BitVec.ofNat 21 k) p

/-- R38, R58: over any run of the block in which no S_INIT and no reset is taken, the sender's counters never decrease
and no frame constructed is ever rewritten; each decodes to its own index. -/
def Obligations.SessionNeverRewritesAFrame : Prop :=
  ∀ (n : Nat) (s t : State), s.Inv → (∀ x ∈ s.inputs.take n, x.endsSession = false) →
    Sys2Proof.core.run n s = .next t →
    s.block.base.toNat ≤ t.block.base.toNat ∧ s.block.nextSeqNum.toNat ≤ t.block.nextSeqNum.toNat ∧
    s.block.outLen.toNat ≤ t.block.outLen.toNat ∧
    ∀ k, k < s.block.outLen.toNat → t.slot k = s.slot k ∧
      ∃ f p, t.slot k = some f ∧ decodeFrame t.cfg f = .ok (BitVec.ofNat 21 k) p

/-- R25, R206: `tmr_run` after an operation is what its timer events, heard in order, make of `tmr_run` before it. -/
def Obligations.TmrRunRecordsTheLastTimerEvent : Prop :=
  ∀ (i : Instr) (s t : State), exec i s = .next t → t.block.tmrRun = timerAfter s.block.tmrRun t.events

/-- R86, R210, R211: which operation emits which event, and that every TMR_START carries the constant T. -/
def Obligations.EventsComeFromTheOperationsOfTheTable : Prop :=
  (∀ (i : Instr) (s t : State), exec i s = .next t → ∀ e ∈ t.events,
    (e.code = 1 → i = .sSubmit ∨ i = .sAck ∨ i = .sTmo) ∧
    (e.code = 2 → i = .rFrame) ∧ (e.code = 3 → i = .rFrame) ∧
    (e.code = 4 → (i = .sSubmit ∨ i = .sAck ∨ i = .sTmo) ∧ e = .tmrStart s.cfg.T) ∧
    (e.code = 5 → (i = .sInit ∨ i = .sAck) ∧ e = .tmrStop)) ∧
  (∀ (f : Bytes) (d : Nat), (Event.sSend f).code = 1 ∧ (Event.rSend f).code = 2 ∧ (Event.rDeliver f).code = 3 ∧
    (Event.tmrStart d).code = 4 ∧ Event.tmrStop.code = 5)

/-- R153, R182: the only operations that change `s_mode` are S_INIT (to OPEN) and S_FINAL (to DRAIN, not from DOWN);
the only ones that change `r_open` are R_INIT (to 1) and R_FINAL (to 0). -/
def Obligations.ModesChangeOnlyByInitAndFinal : Prop :=
  ∀ (i : Instr) (s t : State), exec i s = .next t →
    (t.block.sMode = s.block.sMode ∨ (i = .sInit ∧ t.block.sMode = .opened) ∨
      (i = .sFinal ∧ s.block.sMode ≠ .down ∧ t.block.sMode = .drain)) ∧
    (t.block.rOpen = s.block.rOpen ∨ (i = .rInit ∧ t.block.rOpen = true) ∨
      (i = .rFinal ∧ s.block.rOpen = true ∧ t.block.rOpen = false))

/-! ### The RCV unit (42_receiver.md) -/

/-- R171: R_INIT, whatever `r_open` is: the cursor at 0 and the receiver open; nothing else touched, no event. -/
def Obligations.RInitOpensTheReceiver : Prop :=
  ∀ s : State, s.block.abort = false →
    exec .rInit s = .next (s.answered { s.block with rOpen := true, expectedSeqNum := 0#22 } 0x00000000#32 [] [])

/-- R172: R_FINAL with `r_open` = 1 clears it and leaves the cursor; with `r_open` = 0 it answers NOT_OPEN. -/
def Obligations.RFinalClosesTheReceiver : Prop :=
  ∀ s : State, s.block.abort = false →
    (s.block.rOpen = true →
      exec .rFinal s = .next (s.answered { s.block with rOpen := false } 0x00000000#32 [] [])) ∧
    (s.block.rOpen = false → exec .rFinal s = .next (s.answered s.block 0x30000000#32 [] []))

/-- R176, R177: the frame whose sequence number is the cursor is delivered, then echoed byte for byte, then the cursor
advances by 1. -/
def Obligations.InOrderFrameIsDeliveredAndEchoed : Prop :=
  ∀ (s : State) (q : SeqNum) (p : Bytes), s.block.abort = false → s.block.rOpen = true →
    s.din.length = s.cfg.C → decodeFrame s.cfg s.din = .ok q p → q.toNat = s.block.expectedSeqNum.toNat →
    exec .rFrame s = .next (s.answered
      { s.block with expectedSeqNum := BitVec.ofNat 22 (q.toNat + 1) } (q.setWidth 32) []
      [.rDeliver p, .rSend s.din])

/-- R174, R175, R192: a corrupt frame is answered CORRUPT with its cause and one with another sequence number than the
cursor OUT_OF_ORDER with that number; both are dropped with no event and no change. -/
def Obligations.OtherFramesAreDroppedSilently : Prop :=
  ∀ s : State, s.block.abort = false → s.block.rOpen = true → s.din.length = s.cfg.C →
    (∀ c, decodeFrame s.cfg s.din = .corrupt c →
      exec .rFrame s = .next (s.answered s.block (corruptResponse c) [] [])) ∧
    (∀ q p, decodeFrame s.cfg s.din = .ok q p → q.toNat ≠ s.block.expectedSeqNum.toNat →
      exec .rFrame s = .next (s.answered s.block (0x20000000#32 ||| q.setWidth 32) [] []))

/-- R181: the cursor rises by exactly 1 on each R_FRAME that answers OK and by 0 on every other operation but R_INIT,
and only the payload of a frame whose sequence number is the cursor is delivered. -/
def Obligations.CursorRisesByOneOnAcceptance : Prop :=
  ∀ (i : Instr) (s t : State), exec i s = .next t →
    (i = .rFrame → t.statusField = 0x0#4 →
      t.block.expectedSeqNum.toNat = s.block.expectedSeqNum.toNat + 1 ∧
      ∃ q p, decodeFrame s.cfg s.din = .ok q p ∧ q.toNat = s.block.expectedSeqNum.toNat) ∧
    ((i ≠ .rFrame ∨ t.statusField ≠ 0x0#4) → i ≠ .rInit → t.block.expectedSeqNum = s.block.expectedSeqNum) ∧
    (∀ p, Event.rDeliver p ∈ t.events →
      ∃ q, decodeFrame s.cfg s.din = .ok q p ∧ q.toNat = s.block.expectedSeqNum.toNat)

/-- R180: with the cursor at 2^21 every frame is answered OUT_OF_ORDER or CORRUPT and the cursor stays; it does not
wrap. -/
def Obligations.ExhaustedCursorAcceptsNothing : Prop :=
  ∀ s : State, s.block.abort = false → s.block.rOpen = true → s.din.length = s.cfg.C →
    s.block.expectedSeqNum.toNat = 2 ^ 21 →
    ∃ t, exec .rFrame s = .next t ∧ (t.statusField = 0x1#4 ∨ t.statusField = 0x2#4) ∧
      t.block = s.block ∧ t.events = []

/-- R4, R51, R106, R113, R170: what an operation of one unit answers and does depends on nothing the other unit owns,
and leaves it as it is: the CODEC neither reads nor writes SND or RCV, SND not RCV, RCV not SND and not the store. -/
def Obligations.UnitsDoNotInterfere : Prop :=
  ∀ (i : Instr) (s : State),
    (i.hwUnit ≠ .rcv → ∀ (r : Bool) (e : Counter),
      exec i (s.withReceiver r e) = mapNext (fun t => t.withReceiver r e) (exec i s)) ∧
    (i.hwUnit ≠ .snd → ∀ b : Block,
      exec i (s.withSender b) = mapNext (fun t => t.withSender b) (exec i s))

/-! ### The closed system (60_exceptions.md R209, R212, 70_reset_and_hazards.md R231, R233; log entry 16) -/

/-- R212 (log entry 16): the timer agent's bit equals `tmr_run` between operations for as long as no S_TMO has been refused (and no
reset has cleared `tmr_run` under it, R223). -/
def Obligations.TimerAgentFollowsTmrRun : Prop :=
  ∀ (y y' : System) (a : Action), y.armed = y.snd.block.tmrRun → y.act a = some y' → a ≠ .resetBoth →
    (a = .expire → y.snd.block.abort = false ∧ y.snd.block.sMode ≠ .down) →
    y'.armed = y'.snd.block.tmrRun

/-- R231: a receiver that has already accepted every frame of the sender's window answers every frame of a timeout
OUT_OF_ORDER, with no event and no change: nothing it does can move the sender's `base`. Both ends have the same
constants (C by R225, the others by log entry 16). -/
def Obligations.ResentWindowIsNeverAcknowledgedAgain : Prop :=
  ∀ s t r : State, s.Inv → exec .sTmo s = .next t → r.cfg = s.cfg → r.block.abort = false →
    r.block.rOpen = true → s.block.nextSeqNum.toNat ≤ r.block.expectedSeqNum.toNat →
    t.block.base = s.block.base ∧
    ∀ f, Event.sSend f ∈ t.events →
      ∃ q : SeqNum, exec .rFrame { r with din := f } = .next
        ({ r with din := f }.answered r.block (0x20000000#32 ||| q.setWidth 32) [] [])

/-- R179, R233 (the closed system of log entry 16): over a link that drops, duplicates, reorders and detectably corrupts frames, what one session delivers
upward is, in order and without repetition or gap, a prefix of what the upper layer submitted. -/
def Obligations.DeliveryIsAPrefixOfTheSubmission : Prop :=
  ∀ (cfg : Config) (messages : List Bytes) (actions : List Action) (y0 y : System), cfg.legal = true →
    (System.start cfg messages).run [.initSender, .initReceiver] = some y0 →
    (∀ a ∈ actions, a.detectable cfg = true) → y0.run actions = some y →
    y.delivered.flatten <+: messages.flatten ∧ y.delivered.length = y.rcv.block.expectedSeqNum.toNat

/-- R143, R176, R238 (the closed system of log entry 16): over such a link the sender never counts as acknowledged a frame that the receiver has not
accepted, and the receiver never accepts a frame that was not transmitted. -/
def Obligations.BaseNeverPassesTheReceiverCursor : Prop :=
  ∀ (cfg : Config) (messages : List Bytes) (actions : List Action) (y0 y : System), cfg.legal = true →
    (System.start cfg messages).run [.initSender, .initReceiver] = some y0 →
    (∀ a ∈ actions, a.detectable cfg = true) → y0.run actions = some y →
    y.snd.block.base.toNat ≤ y.rcv.block.expectedSeqNum.toNat ∧
    y.rcv.block.expectedSeqNum.toNat ≤ y.snd.block.nextSeqNum.toNat

/-! ### Assembler (30_encoding.md R88 to R90) -/

/-- R88 to R90: each program line stands for the word of its own operation, with its own `seq`, and its own operand as
DIN; that word is legal and that DIN can be presented beside it; `ENC_ACK <seq>` is `ENC <seq>, ""`; and the frame that
each form of a frame operand names. That the sequence number an event's frame is for is the one `decode` reads in it is
log entry 15's. -/
def Obligations.ProgramLinesAreCommands : Prop :=
  (∀ (cfg : Config) (trace : List Event) (c : Command),
    (Line.comment.command cfg trace ≠ .ok (some c)) ∧
    (∀ q p, (Line.enc q p).command cfg trace = .ok (some c) ↔ c.word = encode (.enc q) ∧ c.din = p) ∧
    (∀ q, (Line.encAck q).command cfg trace = .ok (some c) ↔ c.word = encode (.enc q) ∧ c.din = []) ∧
    (∀ f, (Line.dec f).command cfg trace = .ok (some c) ↔
      c.word = encode .dec ∧ f.resolve cfg trace = .ok c.din) ∧
    (Line.sInit.command cfg trace = .ok (some c) ↔ c.word = encode .sInit ∧ c.din = []) ∧
    (Line.sFinal.command cfg trace = .ok (some c) ↔ c.word = encode .sFinal ∧ c.din = []) ∧
    (∀ m, (Line.sSubmit m).command cfg trace = .ok (some c) ↔ c.word = encode .sSubmit ∧ c.din = m) ∧
    (∀ f, (Line.sAck f).command cfg trace = .ok (some c) ↔
      c.word = encode .sAck ∧ f.resolve cfg trace = .ok c.din) ∧
    (Line.sTmo.command cfg trace = .ok (some c) ↔ c.word = encode .sTmo ∧ c.din = []) ∧
    (Line.rInit.command cfg trace = .ok (some c) ↔ c.word = encode .rInit ∧ c.din = []) ∧
    (Line.rFinal.command cfg trace = .ok (some c) ↔ c.word = encode .rFinal ∧ c.din = []) ∧
    (∀ f, (Line.rFrame f).command cfg trace = .ok (some c) ↔
      c.word = encode .rFrame ∧ f.resolve cfg trace = .ok c.din)) ∧
  (∀ (cfg : Config) (trace : List Event) (l : Line) (c : Command), cfg.legal = true →
    (∀ f, (Event.sSend f ∈ trace ∨ Event.rSend f ∈ trace) → f.length = cfg.C) →
    l.command cfg trace = .ok (some c) →
    ∃ i, decode c.word = .ok i ∧ encode i = c.word ∧ i.wellFormed cfg c.din = true) ∧
  (∀ (cfg : Config) (trace : List Event) (q : SeqNum),
    (Line.encAck q).command cfg trace = (Line.enc q []).command cfg trace ∧
    (Line.encAck q).command cfg trace = .ok (some ⟨0x10000000#32 ||| q.setWidth 32, []⟩)) ∧
  (∀ (cfg : Config) (trace : List Event) (b f : Bytes) (q : SeqNum),
    ((FrameOperand.literal b).resolve cfg trace = .ok f ↔ b.length = cfg.C ∧ f = b) ∧
    ((FrameOperand.enc q b).resolve cfg trace = .ok f ↔ b.length ≤ cfg.MP ∧ f = encodeFrame cfg q b)) ∧
  (∀ (cfg : Config) (earlier later : List Event) (f p : Bytes) (q : SeqNum), decodeFrame cfg f = .ok q p →
    ((∀ g, Event.sSend g ∈ later → ∀ p', decodeFrame cfg g ≠ .ok q p') →
      (FrameOperand.sent q.toNat).resolve cfg (earlier ++ .sSend f :: later) = .ok f) ∧
    ((∀ g, Event.rSend g ∈ later → ∀ p', decodeFrame cfg g ≠ .ok q p') →
      (FrameOperand.acked q.toNat).resolve cfg (earlier ++ .rSend f :: later) = .ok f))

/-! ### Status outputs (10_state.md R26, R31) -/

/-- R26, R31: between operations each status output shows the register of its name, in every state; `s_mode` with the
codes DOWN = 0, OPEN = 1, DRAIN = 2. -/
def Obligations.StatusOutputsShowTheRegisters : Prop :=
  ∀ s : State,
    (s.statusOutputs.st_s_mode = match s.block.sMode with
      | .down => 0#2
      | .opened => 1#2
      | .drain => 2#2) ∧
    s.statusOutputs.st_base = s.block.base ∧ s.statusOutputs.st_next = s.block.nextSeqNum ∧
    s.statusOutputs.st_out_len = s.block.outLen ∧ (s.statusOutputs.st_tmr_run = 1#1 ↔ s.block.tmrRun = true) ∧
    (s.statusOutputs.st_r_open = 1#1 ↔ s.block.rOpen = true) ∧
    s.statusOutputs.st_expected = s.block.expectedSeqNum ∧ (s.statusOutputs.st_abort = 1#1 ↔ s.block.abort = true)

/-! ### The invariant of the closed system (log entry 16) -/

/-- R179, R233, R237, R238 (the closed system of log entry 16): every action of the environment, short of a new session
or an undetected corruption, keeps the invariant of a session and the constants. -/
def Obligations.DetectableActionsKeepTheSystemInv : Prop :=
  ∀ (messages : List Bytes) (y y' : System) (a : Action),
    y.Inv messages → a.detectable y.snd.cfg = true → y.act a = some y' →
    y'.Inv messages ∧ y'.snd.cfg = y.snd.cfg

/-- R132, R171 (the closed system of log entry 16): after reset with any legal constants S_INIT and R_INIT are both
served, and the invariant of a session holds. -/
def Obligations.SystemInvHoldsAfterTheInits : Prop :=
  ∀ (cfg : Config) (messages : List Bytes), cfg.legal = true →
    ∃ y, (System.start cfg messages).run [.initSender, .initReceiver] = some y ∧ y.Inv messages ∧ y.snd.cfg = cfg
end

