-- ==== Sys2Proof/Laws/Decode.lean ====
section
/-! SUPPORT. The fields of a command word (30_encoding.md R78): a word is made of its fields and they can be read back;
what a selected operation says of the fields it was selected from (R80). -/

namespace Sys2Proof

/-- Three fields put side by side, as a number. -/
theorem fields_toNat {a b c : Nat} (hb : b < 2 ^ 7) (hc : c < 2 ^ 21) :
    ((a <<< 7 ||| b) <<< 21 ||| c) = (a * 128 + b) * 2097152 + c := by
  rw [← Nat.shiftLeft_add_eq_or_of_lt hc, ← Nat.shiftLeft_add_eq_or_of_lt hb]
  simp [Nat.shiftLeft_eq]

/-- A command word is made of its three fields (R78). -/
theorem word_of_fields (w : Word) : opField w ++ zeroField w ++ seqField w = w := by
  apply BitVec.eq_of_toNat_eq
  have := w.isLt
  simp only [opField, zeroField, seqField, BitVec.toNat_append, BitVec.extractLsb'_toNat, Nat.shiftRight_eq_div_pow]
  rw [fields_toNat (Nat.mod_lt _ (by decide)) (Nat.mod_lt _ (by decide))]
  omega

/-- The fields of a word put together from three fields (R78, R90). -/
theorem fields_of_word (a : BitVec 4) (b : BitVec 7) (c : SeqNum) :
    opField (a ++ b ++ c) = a ∧ zeroField (a ++ b ++ c) = b ∧ seqField (a ++ b ++ c) = c := by
  have ha := a.isLt
  have hb := b.isLt
  have hc := c.isLt
  refine ⟨?_, ?_, ?_⟩ <;>
  · apply BitVec.eq_of_toNat_eq
    simp only [opField, zeroField, seqField, BitVec.toNat_append, BitVec.extractLsb'_toNat,
      Nat.shiftRight_eq_div_pow]
    rw [fields_toNat hb hc]
    omega

/-- The mask of ENC's row keeps the `op` and `zero` fields of a word and clears `seq` (R80). -/
theorem encMask_of_fields (a : BitVec 4) (b : BitVec 7) (c : SeqNum) :
    (a ++ b ++ c) &&& (0xF#4 ++ 0x7F#7 ++ 0#21) = a ++ b ++ 0#21 := by
  apply BitVec.eq_of_getLsbD_eq
  intro i hi
  simp only [BitVec.getLsbD_and, BitVec.getLsbD_append]
  interval_cases i <;> simp

/-- The `op` code and the operand of an operation selected by an `op` code (R80). -/
theorem selectOp_inv {op : BitVec 4} {seq : SeqNum} {i : Instr} (h : selectOp op.toNat seq = some i) :
    i.opCode = op ∧ i.seqOperand = (if i.takesSeq then seq else 0#21) := by
  unfold selectOp at h
  split at h <;> cases h <;>
    exact ⟨BitVec.eq_of_toNat_eq (by simp only [Instr.opCode, BitVec.toNat_ofNat]; omega), rfl⟩

/-- An `op` code selects an operation exactly when it is 0x1 to 0xA (R80, R81). -/
theorem selectOp_isSome_iff (op : Nat) (seq : SeqNum) : (selectOp op seq).isSome ↔ 1 ≤ op ∧ op ≤ 10 := by
  constructor
  · intro h
    unfold selectOp at h
    split at h <;> first | omega | simp at h
  · rintro ⟨h1, h2⟩
    interval_cases op <;> rfl

end Sys2Proof
end

