-- ==== Sys2Proof/Laws/Frame.lean ====
section
/-! SUPPORT. The laws of the frame functions: the digit converters (40_codec.md R100 to R102), the byte sum (R103), the
fields of an encoded frame (R105) and what each answer of `decode` says (R109). -/

namespace Sys2Proof.Machine

@[simp] theorem zeros_length (n : Nat) : (zeros n).length = n := by simp [zeros]

/-! ### Digits -/

/-- The three digits of a sequence number, as numbers (R100). -/
theorem digits128_toNat (s : SeqNum) : (digits128 s).map BitVec.toNat =
    [s.toNat / 16384, s.toNat / 128 % 128, s.toNat % 128] := by
  have hs := s.isLt
  simp only [digits128, List.map_cons, List.map_nil, BitVec.toNat_setWidth, BitVec.extractLsb'_toNat,
    Nat.shiftRight_eq_div_pow, List.cons.injEq, and_true]
  refine ⟨?_, ?_, ?_⟩ <;> omega

/-- Undoing the digits gives the sequence number back (R101). -/
theorem undigits128_of_toNat {s : SeqNum} {b1 b2 b3 : Byte} (h1 : b1.toNat = s.toNat / 16384)
    (h2 : b2.toNat = s.toNat / 128 % 128) (h3 : b3.toNat = s.toNat % 128) : undigits128 b1 b2 b3 = s := by
  apply BitVec.eq_of_toNat_eq
  have hs := s.isLt
  simp only [undigits128, BitVec.toNat_ofNat, h1, h2, h3]
  omega

/-- The value of three digits of at most 127 (R101). -/
theorem undigits128_toNat {b1 b2 b3 : Byte} (h1 : b1.toNat ≤ 127) (h2 : b2.toNat ≤ 127) (h3 : b3.toNat ≤ 127) :
    (undigits128 b1 b2 b3).toNat = b1.toNat * 16384 + b2.toNat * 128 + b3.toNat := by
  simp only [undigits128, BitVec.toNat_ofNat]
  omega

/-- The three decimal digits, as numbers (R102). -/
theorem digits10_toNat {k : Nat} (h : k < 1000) : (digits10 k).map BitVec.toNat = [k / 100, k / 10 % 10, k % 10] := by
  simp only [digits10, List.map_cons, List.map_nil, BitVec.toNat_ofNat, List.cons.injEq, and_true]
  refine ⟨?_, ?_, ?_⟩ <;> omega

/-- Distinct values have distinct digits (R102). -/
theorem digits10_injective {k l : Nat} (hk : k < 1000) (hl : l < 1000) (h : digits10 k = digits10 l) : k = l := by
  have h' := congrArg (List.map BitVec.toNat) h
  rw [digits10_toNat hk, digits10_toNat hl] at h'
  simp only [List.cons.injEq, and_true] at h'
  omega

/-! ### The byte sum and the checksum -/

@[simp] theorem byteSum_nil : byteSum [] = 0 := rfl

@[simp] theorem byteSum_cons (b : Byte) (p : Bytes) : byteSum (b :: p) = b.toNat + byteSum p := rfl

@[simp] theorem byteSum_append (p q : Bytes) : byteSum (p ++ q) = byteSum p + byteSum q := by
  induction p with
  | nil => simp
  | cons b p ih => simp [ih, Nat.add_assoc]

/-- The checksum is a value in `[0, 1000)` (R104). -/
theorem cksum_lt (s : SeqNum) (p : Bytes) : cksum s p < 1000 := Nat.mod_lt _ (by decide)

/-! ### The fields of an encoded frame -/

/-- An encoded frame, written out by fields. -/
theorem encodeFrame_eq (cfg : Config) (s : SeqNum) (p : Bytes) : encodeFrame cfg s p =
    BitVec.ofNat 8 p.length :: (s.extractLsb' 14 7).setWidth 8 :: (s.extractLsb' 7 7).setWidth 8 ::
      (s.extractLsb' 0 7).setWidth 8 :: BitVec.ofNat 8 (cksum s p / 100) :: BitVec.ofNat 8 (cksum s p / 10 % 10) ::
      BitVec.ofNat 8 (cksum s p % 10) :: (p ++ zeros (cfg.MP - p.length)) := by
  simp [encodeFrame, digits128, digits10]

/-- A frame is exactly C bytes (R70). -/
theorem encodeFrame_length {cfg : Config} (s : SeqNum) {p : Bytes} (hc : 7 ≤ cfg.C) (hp : p.length ≤ cfg.MP) :
    (encodeFrame cfg s p).length = cfg.C := by
  simp only [Config.MP, headerSize] at hp
  simp only [encodeFrame_eq, List.length_cons, List.length_append, zeros_length, Config.MP, headerSize]
  omega

/-- What legality says of the constants (R9, R10, R12, R225). -/
theorem Config.legal_iff (cfg : Config) : cfg.legal = true ↔
    8 ≤ cfg.C ∧ cfg.C ≤ 262 ∧ 1 ≤ cfg.W ∧ cfg.W ≤ 2097152 ∧ 1 ≤ cfg.N_OUT ∧ cfg.N_OUT ≤ 2097152 := by
  simp [Config.legal, Config.capacityLegal, Config.windowLegal, Config.depthLegal, seqSpace, and_assoc]

/-! ### What `decode` answers -/

/-- When `decode` answers a sequence number and a payload (R109). -/
theorem decodeFrame_ok_iff (cfg : Config) (f : Bytes) (s : SeqNum) (p : Bytes) : decodeFrame cfg f = .ok s p ↔
    (byteAt f 0).toNat ≤ cfg.MP ∧
    ((byteAt f 1).toNat ≤ 127 ∧ (byteAt f 2).toNat ≤ 127 ∧ (byteAt f 3).toNat ≤ 127) ∧
    s = decodedSeq f ∧ p = decodedPayload f ∧
    [byteAt f 4, byteAt f 5, byteAt f 6] = digits10 (cksum (decodedSeq f) (decodedPayload f)) := by
  unfold decodeFrame
  constructor
  · intro h
    split at h
    · cases h
    · split at h
      · cases h
      · split at h
        · next h3 =>
          simp only [Decoded.ok.injEq] at h
          exact ⟨by omega, by omega, h.1.symm, h.2.symm, h3⟩
        · cases h
  · rintro ⟨h1, h2, rfl, rfl, h5⟩
    rw [if_neg (by omega), if_neg (by omega), if_pos h5]

/-- An answer of `decode` is either a pair or a cause. -/
theorem decodeFrame_cases (cfg : Config) (f : Bytes) :
    (∃ s p, decodeFrame cfg f = .ok s p) ∨ ∃ c, decodeFrame cfg f = .corrupt c := by
  cases decodeFrame cfg f with
  | ok s p => exact .inl ⟨s, p, rfl⟩
  | corrupt c => exact .inr ⟨c, rfl⟩

end Sys2Proof.Machine
end

