-- ==== Sys2Proof/Laws/Memory.lean ====
section
/-! SUPPORT. The laws of the store's memory: a read after a write, the writes that leave a byte alone, and the canonical
form kept by every memory operation. -/

namespace Sys2Proof.Machine

/-- A byte just written reads back. -/
theorem readByte_writeByte_same (m : Memory) (a : Nat) (b : Byte) : readByte (writeByte m a b) a = some b := by
  induction m with
  | nil => simp [writeByte, readByte]
  | cons x m ih =>
    obtain ⟨k, v⟩ := x
    simp only [writeByte]
    split
    · simp [readByte]
    · split
      · next h => simp [readByte, h]
      · next h => simp [readByte, Ne.symm h, ih]

/-- A write leaves every other byte alone. -/
theorem readByte_writeByte_other (m : Memory) {a x : Nat} (b : Byte) (h : x ≠ a) :
    readByte (writeByte m a b) x = readByte m x := by
  induction m with
  | nil => simp [writeByte, readByte, Ne.symm h]
  | cons y m ih =>
    obtain ⟨k, v⟩ := y
    simp only [writeByte]
    split
    · simp [readByte, Ne.symm h]
    · split
      · next _ hk => subst hk; simp [readByte, Ne.symm h]
      · simp [readByte, ih]

/-- The listed addresses after a write are the earlier ones and the one written. -/
theorem mem_writeByte {m : Memory} {a : Nat} {b : Byte} {x : Host.Cell} (h : x ∈ writeByte m a b) :
    x = (a, b) ∨ x ∈ m := by
  induction m with
  | nil => simpa [writeByte] using h
  | cons y m ih =>
    obtain ⟨k, v⟩ := y
    simp only [writeByte] at h
    split at h
    · simpa using h
    · split at h
      · next _ hk => subst hk; rcases List.mem_cons.1 h with h | h <;> simp [h]
      · rcases List.mem_cons.1 h with h | h
        · simp [h]
        · rcases ih h with h | h <;> simp [h]

/-- Writing a byte keeps the canonical form. -/
theorem writeByte_wf {m : Memory} (a : Nat) (b : Byte) (h : Memory.wf m) : Memory.wf (writeByte m a b) := by
  induction m with
  | nil => simp [writeByte]
  | cons y m ih =>
    obtain ⟨k, v⟩ := y
    obtain ⟨hk, hm⟩ := List.pairwise_cons.1 h
    simp only [writeByte]
    split
    · next ha =>
      refine List.pairwise_cons.2 ⟨fun x hx => ?_, h⟩
      rcases List.mem_cons.1 hx with rfl | hx
      · exact ha
      · exact Nat.lt_trans ha (hk x hx)
    · split
      · exact List.pairwise_cons.2 ⟨hk, hm⟩
      · refine List.pairwise_cons.2 ⟨fun x hx => ?_, ih hm⟩
        rcases mem_writeByte hx with rfl | hx
        · show k < a
          omega
        · exact hk x hx

/-- Writing a byte string keeps the canonical form. -/
theorem memWrite_wf (bs : Bytes) : ∀ {m : Memory} (a : Nat), Memory.wf m → Memory.wf (memWrite m a bs) := by
  induction bs with
  | nil => intro m a h; exact h
  | cons b bs ih => intro m a h; exact ih _ (writeByte_wf a b h)

/-- The listed addresses after a byte string is written are the earlier ones and those of its bytes. -/
theorem mem_memWrite (bs : Bytes) : ∀ {m : Memory} {a : Nat} {x : Host.Cell}, x ∈ memWrite m a bs →
    (a ≤ x.1 ∧ x.1 < a + bs.length) ∨ x ∈ m := by
  induction bs with
  | nil => intro m a x h; exact .inr h
  | cons b bs ih =>
    intro m a x h
    rcases ih h with ⟨h1, h2⟩ | h
    · left; simp only [List.length_cons]; omega
    · rcases mem_writeByte h with rfl | h
      · left; simp
      · exact .inr h

/-- A byte string leaves every byte outside its addresses alone. -/
theorem readByte_memWrite_other (bs : Bytes) : ∀ (m : Memory) (a : Nat) {x : Nat},
    x < a ∨ a + bs.length ≤ x → readByte (memWrite m a bs) x = readByte m x := by
  induction bs with
  | nil => intro m a x _; rfl
  | cons b bs ih =>
    intro m a x h
    simp only [List.length_cons] at h
    rw [memWrite, ih _ _ (by omega), readByte_writeByte_other _ _ (by omega)]

/-- The byte at offset j of a byte string just written reads back. -/
theorem readByte_memWrite_same (bs : Bytes) : ∀ (m : Memory) (a j : Nat), j < bs.length →
    readByte (memWrite m a bs) (a + j) = bs[j]? := by
  induction bs with
  | nil => intro m a j h; simp at h
  | cons b bs ih =>
    intro m a j h
    cases j with
    | zero =>
      rw [memWrite, readByte_memWrite_other _ _ _ (by omega), Nat.add_zero, readByte_writeByte_same]
      rfl
    | succ j =>
      have := ih (writeByte m a b) (a + 1) j (by simpa using h)
      rw [memWrite, show a + (j + 1) = a + 1 + j by omega, this]
      rfl

/-- A read of several bytes depends on the bytes read only. -/
theorem memRead_congr {m m' : Memory} : ∀ (n a : Nat), (∀ x, a ≤ x → x < a + n → readByte m x = readByte m' x) →
    memRead m a n = memRead m' a n
  | 0, _, _ => rfl
  | n + 1, a, h => by
    rw [memRead, memRead, h a (by omega) (by omega), memRead_congr n (a + 1) fun x h1 h2 => h x (by omega) (by omega)]

/-- What a read of several bytes answers has that many bytes. -/
theorem memRead_length {m : Memory} : ∀ {n a : Nat} {f : Bytes}, memRead m a n = some f → f.length = n
  | 0, _, f, h => by cases h; rfl
  | n + 1, a, f, h => by
    rw [memRead] at h
    split at h
    · next hb => cases h; simp [memRead_length hb]
    · cases h

/-- A byte string whose bytes stand at the addresses read is what the read answers. -/
theorem memRead_of_bytes {m : Memory} : ∀ {bs : Bytes} {a : Nat}, (∀ j, j < bs.length → readByte m (a + j) = bs[j]?) →
    memRead m a bs.length = some bs
  | [], _, _ => rfl
  | b :: bs, a, h => by
    have h0 : readByte m a = some b := by simpa using h 0 (by simp)
    have hs : memRead m (a + 1) bs.length = some bs :=
      memRead_of_bytes fun j hj => by
        have := h (j + 1) (by simpa using hj)
        rw [show a + 1 + j = a + (j + 1) by omega, this]
        simp
    rw [List.length_cons, memRead, h0, hs]

/-- A byte string just written reads back whole. -/
theorem memRead_memWrite_same (bs : Bytes) (m : Memory) (a : Nat) : memRead (memWrite m a bs) a bs.length = some bs :=
  memRead_of_bytes fun j hj => readByte_memWrite_same bs m a j hj

/-- A byte string written elsewhere leaves a read alone. -/
theorem memRead_memWrite_other (bs : Bytes) (m : Memory) {a b n : Nat} (h : b + n ≤ a ∨ a + bs.length ≤ b) :
    memRead (memWrite m a bs) b n = memRead m b n :=
  memRead_congr _ _ fun x h1 h2 => readByte_memWrite_other bs m a (by omega)

/-- The store right after reset is in canonical form. -/
theorem reset_wf (cfg : Config) : Memory.wf (State.resetWith cfg).block.out := List.Pairwise.nil

end Sys2Proof.Machine
end

