-- ==== Sys2Proof/Laws/State.lean ====
section
/-! SUPPORT. One lemma per field per update of State, true by rfl. -/

namespace Sys2Proof.Machine

variable (s : State)

@[simp] theorem State.setSMode_cfg (m : SMode) : (s.setSMode m).cfg = s.cfg := rfl
@[simp] theorem State.setSMode_inputs (m : SMode) : (s.setSMode m).inputs = s.inputs := rfl
@[simp] theorem State.setSMode_din (m : SMode) : (s.setSMode m).din = s.din := rfl
@[simp] theorem State.setSMode_rsp (m : SMode) : (s.setSMode m).rsp = s.rsp := rfl
@[simp] theorem State.setSMode_dout (m : SMode) : (s.setSMode m).dout = s.dout := rfl
@[simp] theorem State.setSMode_events (m : SMode) : (s.setSMode m).events = s.events := rfl
@[simp] theorem State.setSMode_sMode (m : SMode) : (s.setSMode m).block.sMode = m := rfl
@[simp] theorem State.setSMode_base (m : SMode) : (s.setSMode m).block.base = s.block.base := rfl
@[simp] theorem State.setSMode_nextSeqNum (m : SMode) : (s.setSMode m).block.nextSeqNum = s.block.nextSeqNum := rfl
@[simp] theorem State.setSMode_outLen (m : SMode) : (s.setSMode m).block.outLen = s.block.outLen := rfl
@[simp] theorem State.setSMode_tmrRun (m : SMode) : (s.setSMode m).block.tmrRun = s.block.tmrRun := rfl
@[simp] theorem State.setSMode_out (m : SMode) : (s.setSMode m).block.out = s.block.out := rfl
@[simp] theorem State.setSMode_rOpen (m : SMode) : (s.setSMode m).block.rOpen = s.block.rOpen := rfl
@[simp] theorem State.setSMode_expectedSeqNum (m : SMode) : (s.setSMode m).block.expectedSeqNum = s.block.expectedSeqNum := rfl
@[simp] theorem State.setSMode_abort (m : SMode) : (s.setSMode m).block.abort = s.block.abort := rfl

@[simp] theorem State.setBase_cfg (v : Counter) : (s.setBase v).cfg = s.cfg := rfl
@[simp] theorem State.setBase_inputs (v : Counter) : (s.setBase v).inputs = s.inputs := rfl
@[simp] theorem State.setBase_din (v : Counter) : (s.setBase v).din = s.din := rfl
@[simp] theorem State.setBase_rsp (v : Counter) : (s.setBase v).rsp = s.rsp := rfl
@[simp] theorem State.setBase_dout (v : Counter) : (s.setBase v).dout = s.dout := rfl
@[simp] theorem State.setBase_events (v : Counter) : (s.setBase v).events = s.events := rfl
@[simp] theorem State.setBase_sMode (v : Counter) : (s.setBase v).block.sMode = s.block.sMode := rfl
@[simp] theorem State.setBase_base (v : Counter) : (s.setBase v).block.base = v := rfl
@[simp] theorem State.setBase_nextSeqNum (v : Counter) : (s.setBase v).block.nextSeqNum = s.block.nextSeqNum := rfl
@[simp] theorem State.setBase_outLen (v : Counter) : (s.setBase v).block.outLen = s.block.outLen := rfl
@[simp] theorem State.setBase_tmrRun (v : Counter) : (s.setBase v).block.tmrRun = s.block.tmrRun := rfl
@[simp] theorem State.setBase_out (v : Counter) : (s.setBase v).block.out = s.block.out := rfl
@[simp] theorem State.setBase_rOpen (v : Counter) : (s.setBase v).block.rOpen = s.block.rOpen := rfl
@[simp] theorem State.setBase_expectedSeqNum (v : Counter) : (s.setBase v).block.expectedSeqNum = s.block.expectedSeqNum := rfl
@[simp] theorem State.setBase_abort (v : Counter) : (s.setBase v).block.abort = s.block.abort := rfl

@[simp] theorem State.setNext_cfg (v : Counter) : (s.setNext v).cfg = s.cfg := rfl
@[simp] theorem State.setNext_inputs (v : Counter) : (s.setNext v).inputs = s.inputs := rfl
@[simp] theorem State.setNext_din (v : Counter) : (s.setNext v).din = s.din := rfl
@[simp] theorem State.setNext_rsp (v : Counter) : (s.setNext v).rsp = s.rsp := rfl
@[simp] theorem State.setNext_dout (v : Counter) : (s.setNext v).dout = s.dout := rfl
@[simp] theorem State.setNext_events (v : Counter) : (s.setNext v).events = s.events := rfl
@[simp] theorem State.setNext_sMode (v : Counter) : (s.setNext v).block.sMode = s.block.sMode := rfl
@[simp] theorem State.setNext_base (v : Counter) : (s.setNext v).block.base = s.block.base := rfl
@[simp] theorem State.setNext_nextSeqNum (v : Counter) : (s.setNext v).block.nextSeqNum = v := rfl
@[simp] theorem State.setNext_outLen (v : Counter) : (s.setNext v).block.outLen = s.block.outLen := rfl
@[simp] theorem State.setNext_tmrRun (v : Counter) : (s.setNext v).block.tmrRun = s.block.tmrRun := rfl
@[simp] theorem State.setNext_out (v : Counter) : (s.setNext v).block.out = s.block.out := rfl
@[simp] theorem State.setNext_rOpen (v : Counter) : (s.setNext v).block.rOpen = s.block.rOpen := rfl
@[simp] theorem State.setNext_expectedSeqNum (v : Counter) : (s.setNext v).block.expectedSeqNum = s.block.expectedSeqNum := rfl
@[simp] theorem State.setNext_abort (v : Counter) : (s.setNext v).block.abort = s.block.abort := rfl

@[simp] theorem State.setOutLen_cfg (v : Counter) : (s.setOutLen v).cfg = s.cfg := rfl
@[simp] theorem State.setOutLen_inputs (v : Counter) : (s.setOutLen v).inputs = s.inputs := rfl
@[simp] theorem State.setOutLen_din (v : Counter) : (s.setOutLen v).din = s.din := rfl
@[simp] theorem State.setOutLen_rsp (v : Counter) : (s.setOutLen v).rsp = s.rsp := rfl
@[simp] theorem State.setOutLen_dout (v : Counter) : (s.setOutLen v).dout = s.dout := rfl
@[simp] theorem State.setOutLen_events (v : Counter) : (s.setOutLen v).events = s.events := rfl
@[simp] theorem State.setOutLen_sMode (v : Counter) : (s.setOutLen v).block.sMode = s.block.sMode := rfl
@[simp] theorem State.setOutLen_base (v : Counter) : (s.setOutLen v).block.base = s.block.base := rfl
@[simp] theorem State.setOutLen_nextSeqNum (v : Counter) : (s.setOutLen v).block.nextSeqNum = s.block.nextSeqNum := rfl
@[simp] theorem State.setOutLen_outLen (v : Counter) : (s.setOutLen v).block.outLen = v := rfl
@[simp] theorem State.setOutLen_tmrRun (v : Counter) : (s.setOutLen v).block.tmrRun = s.block.tmrRun := rfl
@[simp] theorem State.setOutLen_out (v : Counter) : (s.setOutLen v).block.out = s.block.out := rfl
@[simp] theorem State.setOutLen_rOpen (v : Counter) : (s.setOutLen v).block.rOpen = s.block.rOpen := rfl
@[simp] theorem State.setOutLen_expectedSeqNum (v : Counter) : (s.setOutLen v).block.expectedSeqNum = s.block.expectedSeqNum := rfl
@[simp] theorem State.setOutLen_abort (v : Counter) : (s.setOutLen v).block.abort = s.block.abort := rfl

@[simp] theorem State.setTmrRun_cfg (v : Bool) : (s.setTmrRun v).cfg = s.cfg := rfl
@[simp] theorem State.setTmrRun_inputs (v : Bool) : (s.setTmrRun v).inputs = s.inputs := rfl
@[simp] theorem State.setTmrRun_din (v : Bool) : (s.setTmrRun v).din = s.din := rfl
@[simp] theorem State.setTmrRun_rsp (v : Bool) : (s.setTmrRun v).rsp = s.rsp := rfl
@[simp] theorem State.setTmrRun_dout (v : Bool) : (s.setTmrRun v).dout = s.dout := rfl
@[simp] theorem State.setTmrRun_events (v : Bool) : (s.setTmrRun v).events = s.events := rfl
@[simp] theorem State.setTmrRun_sMode (v : Bool) : (s.setTmrRun v).block.sMode = s.block.sMode := rfl
@[simp] theorem State.setTmrRun_base (v : Bool) : (s.setTmrRun v).block.base = s.block.base := rfl
@[simp] theorem State.setTmrRun_nextSeqNum (v : Bool) : (s.setTmrRun v).block.nextSeqNum = s.block.nextSeqNum := rfl
@[simp] theorem State.setTmrRun_outLen (v : Bool) : (s.setTmrRun v).block.outLen = s.block.outLen := rfl
@[simp] theorem State.setTmrRun_tmrRun (v : Bool) : (s.setTmrRun v).block.tmrRun = v := rfl
@[simp] theorem State.setTmrRun_out (v : Bool) : (s.setTmrRun v).block.out = s.block.out := rfl
@[simp] theorem State.setTmrRun_rOpen (v : Bool) : (s.setTmrRun v).block.rOpen = s.block.rOpen := rfl
@[simp] theorem State.setTmrRun_expectedSeqNum (v : Bool) : (s.setTmrRun v).block.expectedSeqNum = s.block.expectedSeqNum := rfl
@[simp] theorem State.setTmrRun_abort (v : Bool) : (s.setTmrRun v).block.abort = s.block.abort := rfl

@[simp] theorem State.setOut_cfg (m : Memory) : (s.setOut m).cfg = s.cfg := rfl
@[simp] theorem State.setOut_inputs (m : Memory) : (s.setOut m).inputs = s.inputs := rfl
@[simp] theorem State.setOut_din (m : Memory) : (s.setOut m).din = s.din := rfl
@[simp] theorem State.setOut_rsp (m : Memory) : (s.setOut m).rsp = s.rsp := rfl
@[simp] theorem State.setOut_dout (m : Memory) : (s.setOut m).dout = s.dout := rfl
@[simp] theorem State.setOut_events (m : Memory) : (s.setOut m).events = s.events := rfl
@[simp] theorem State.setOut_sMode (m : Memory) : (s.setOut m).block.sMode = s.block.sMode := rfl
@[simp] theorem State.setOut_base (m : Memory) : (s.setOut m).block.base = s.block.base := rfl
@[simp] theorem State.setOut_nextSeqNum (m : Memory) : (s.setOut m).block.nextSeqNum = s.block.nextSeqNum := rfl
@[simp] theorem State.setOut_outLen (m : Memory) : (s.setOut m).block.outLen = s.block.outLen := rfl
@[simp] theorem State.setOut_tmrRun (m : Memory) : (s.setOut m).block.tmrRun = s.block.tmrRun := rfl
@[simp] theorem State.setOut_out (m : Memory) : (s.setOut m).block.out = m := rfl
@[simp] theorem State.setOut_rOpen (m : Memory) : (s.setOut m).block.rOpen = s.block.rOpen := rfl
@[simp] theorem State.setOut_expectedSeqNum (m : Memory) : (s.setOut m).block.expectedSeqNum = s.block.expectedSeqNum := rfl
@[simp] theorem State.setOut_abort (m : Memory) : (s.setOut m).block.abort = s.block.abort := rfl

@[simp] theorem State.setROpen_cfg (v : Bool) : (s.setROpen v).cfg = s.cfg := rfl
@[simp] theorem State.setROpen_inputs (v : Bool) : (s.setROpen v).inputs = s.inputs := rfl
@[simp] theorem State.setROpen_din (v : Bool) : (s.setROpen v).din = s.din := rfl
@[simp] theorem State.setROpen_rsp (v : Bool) : (s.setROpen v).rsp = s.rsp := rfl
@[simp] theorem State.setROpen_dout (v : Bool) : (s.setROpen v).dout = s.dout := rfl
@[simp] theorem State.setROpen_events (v : Bool) : (s.setROpen v).events = s.events := rfl
@[simp] theorem State.setROpen_sMode (v : Bool) : (s.setROpen v).block.sMode = s.block.sMode := rfl
@[simp] theorem State.setROpen_base (v : Bool) : (s.setROpen v).block.base = s.block.base := rfl
@[simp] theorem State.setROpen_nextSeqNum (v : Bool) : (s.setROpen v).block.nextSeqNum = s.block.nextSeqNum := rfl
@[simp] theorem State.setROpen_outLen (v : Bool) : (s.setROpen v).block.outLen = s.block.outLen := rfl
@[simp] theorem State.setROpen_tmrRun (v : Bool) : (s.setROpen v).block.tmrRun = s.block.tmrRun := rfl
@[simp] theorem State.setROpen_out (v : Bool) : (s.setROpen v).block.out = s.block.out := rfl
@[simp] theorem State.setROpen_rOpen (v : Bool) : (s.setROpen v).block.rOpen = v := rfl
@[simp] theorem State.setROpen_expectedSeqNum (v : Bool) : (s.setROpen v).block.expectedSeqNum = s.block.expectedSeqNum := rfl
@[simp] theorem State.setROpen_abort (v : Bool) : (s.setROpen v).block.abort = s.block.abort := rfl

@[simp] theorem State.setExpected_cfg (v : Counter) : (s.setExpected v).cfg = s.cfg := rfl
@[simp] theorem State.setExpected_inputs (v : Counter) : (s.setExpected v).inputs = s.inputs := rfl
@[simp] theorem State.setExpected_din (v : Counter) : (s.setExpected v).din = s.din := rfl
@[simp] theorem State.setExpected_rsp (v : Counter) : (s.setExpected v).rsp = s.rsp := rfl
@[simp] theorem State.setExpected_dout (v : Counter) : (s.setExpected v).dout = s.dout := rfl
@[simp] theorem State.setExpected_events (v : Counter) : (s.setExpected v).events = s.events := rfl
@[simp] theorem State.setExpected_sMode (v : Counter) : (s.setExpected v).block.sMode = s.block.sMode := rfl
@[simp] theorem State.setExpected_base (v : Counter) : (s.setExpected v).block.base = s.block.base := rfl
@[simp] theorem State.setExpected_nextSeqNum (v : Counter) : (s.setExpected v).block.nextSeqNum = s.block.nextSeqNum := rfl
@[simp] theorem State.setExpected_outLen (v : Counter) : (s.setExpected v).block.outLen = s.block.outLen := rfl
@[simp] theorem State.setExpected_tmrRun (v : Counter) : (s.setExpected v).block.tmrRun = s.block.tmrRun := rfl
@[simp] theorem State.setExpected_out (v : Counter) : (s.setExpected v).block.out = s.block.out := rfl
@[simp] theorem State.setExpected_rOpen (v : Counter) : (s.setExpected v).block.rOpen = s.block.rOpen := rfl
@[simp] theorem State.setExpected_expectedSeqNum (v : Counter) : (s.setExpected v).block.expectedSeqNum = v := rfl
@[simp] theorem State.setExpected_abort (v : Counter) : (s.setExpected v).block.abort = s.block.abort := rfl

@[simp] theorem State.setAbort_cfg : (s.setAbort).cfg = s.cfg := rfl
@[simp] theorem State.setAbort_inputs : (s.setAbort).inputs = s.inputs := rfl
@[simp] theorem State.setAbort_din : (s.setAbort).din = s.din := rfl
@[simp] theorem State.setAbort_rsp : (s.setAbort).rsp = s.rsp := rfl
@[simp] theorem State.setAbort_dout : (s.setAbort).dout = s.dout := rfl
@[simp] theorem State.setAbort_events : (s.setAbort).events = s.events := rfl
@[simp] theorem State.setAbort_sMode : (s.setAbort).block.sMode = s.block.sMode := rfl
@[simp] theorem State.setAbort_base : (s.setAbort).block.base = s.block.base := rfl
@[simp] theorem State.setAbort_nextSeqNum : (s.setAbort).block.nextSeqNum = s.block.nextSeqNum := rfl
@[simp] theorem State.setAbort_outLen : (s.setAbort).block.outLen = s.block.outLen := rfl
@[simp] theorem State.setAbort_tmrRun : (s.setAbort).block.tmrRun = s.block.tmrRun := rfl
@[simp] theorem State.setAbort_out : (s.setAbort).block.out = s.block.out := rfl
@[simp] theorem State.setAbort_rOpen : (s.setAbort).block.rOpen = s.block.rOpen := rfl
@[simp] theorem State.setAbort_expectedSeqNum : (s.setAbort).block.expectedSeqNum = s.block.expectedSeqNum := rfl
@[simp] theorem State.setAbort_abort : (s.setAbort).block.abort = true := rfl

@[simp] theorem State.startTimer_cfg : (s.startTimer).cfg = s.cfg := rfl
@[simp] theorem State.startTimer_inputs : (s.startTimer).inputs = s.inputs := rfl
@[simp] theorem State.startTimer_din : (s.startTimer).din = s.din := rfl
@[simp] theorem State.startTimer_rsp : (s.startTimer).rsp = s.rsp := rfl
@[simp] theorem State.startTimer_dout : (s.startTimer).dout = s.dout := rfl
@[simp] theorem State.startTimer_events : (s.startTimer).events = s.events ++ [.tmrStart s.cfg.T] := rfl
@[simp] theorem State.startTimer_sMode : (s.startTimer).block.sMode = s.block.sMode := rfl
@[simp] theorem State.startTimer_base : (s.startTimer).block.base = s.block.base := rfl
@[simp] theorem State.startTimer_nextSeqNum : (s.startTimer).block.nextSeqNum = s.block.nextSeqNum := rfl
@[simp] theorem State.startTimer_outLen : (s.startTimer).block.outLen = s.block.outLen := rfl
@[simp] theorem State.startTimer_tmrRun : (s.startTimer).block.tmrRun = true := rfl
@[simp] theorem State.startTimer_out : (s.startTimer).block.out = s.block.out := rfl
@[simp] theorem State.startTimer_rOpen : (s.startTimer).block.rOpen = s.block.rOpen := rfl
@[simp] theorem State.startTimer_expectedSeqNum : (s.startTimer).block.expectedSeqNum = s.block.expectedSeqNum := rfl
@[simp] theorem State.startTimer_abort : (s.startTimer).block.abort = s.block.abort := rfl

@[simp] theorem State.stopTimer_cfg : (s.stopTimer).cfg = s.cfg := rfl
@[simp] theorem State.stopTimer_inputs : (s.stopTimer).inputs = s.inputs := rfl
@[simp] theorem State.stopTimer_din : (s.stopTimer).din = s.din := rfl
@[simp] theorem State.stopTimer_rsp : (s.stopTimer).rsp = s.rsp := rfl
@[simp] theorem State.stopTimer_dout : (s.stopTimer).dout = s.dout := rfl
@[simp] theorem State.stopTimer_events : (s.stopTimer).events = s.events ++ [.tmrStop] := rfl
@[simp] theorem State.stopTimer_sMode : (s.stopTimer).block.sMode = s.block.sMode := rfl
@[simp] theorem State.stopTimer_base : (s.stopTimer).block.base = s.block.base := rfl
@[simp] theorem State.stopTimer_nextSeqNum : (s.stopTimer).block.nextSeqNum = s.block.nextSeqNum := rfl
@[simp] theorem State.stopTimer_outLen : (s.stopTimer).block.outLen = s.block.outLen := rfl
@[simp] theorem State.stopTimer_tmrRun : (s.stopTimer).block.tmrRun = false := rfl
@[simp] theorem State.stopTimer_out : (s.stopTimer).block.out = s.block.out := rfl
@[simp] theorem State.stopTimer_rOpen : (s.stopTimer).block.rOpen = s.block.rOpen := rfl
@[simp] theorem State.stopTimer_expectedSeqNum : (s.stopTimer).block.expectedSeqNum = s.block.expectedSeqNum := rfl
@[simp] theorem State.stopTimer_abort : (s.stopTimer).block.abort = s.block.abort := rfl

@[simp] theorem State.emit_cfg (e : Event) : (s.emit e).cfg = s.cfg := rfl
@[simp] theorem State.emit_inputs (e : Event) : (s.emit e).inputs = s.inputs := rfl
@[simp] theorem State.emit_din (e : Event) : (s.emit e).din = s.din := rfl
@[simp] theorem State.emit_rsp (e : Event) : (s.emit e).rsp = s.rsp := rfl
@[simp] theorem State.emit_dout (e : Event) : (s.emit e).dout = s.dout := rfl
@[simp] theorem State.emit_events (e : Event) : (s.emit e).events = s.events ++ [e] := rfl
@[simp] theorem State.emit_block (e : Event) : (s.emit e).block = s.block := rfl

@[simp] theorem State.respond_cfg (rsp : Word) (dout : Bytes) : (s.respond rsp dout).cfg = s.cfg := rfl
@[simp] theorem State.respond_inputs (rsp : Word) (dout : Bytes) : (s.respond rsp dout).inputs = s.inputs := rfl
@[simp] theorem State.respond_din (rsp : Word) (dout : Bytes) : (s.respond rsp dout).din = s.din := rfl
@[simp] theorem State.respond_rsp (rsp : Word) (dout : Bytes) : (s.respond rsp dout).rsp = rsp := rfl
@[simp] theorem State.respond_dout (rsp : Word) (dout : Bytes) : (s.respond rsp dout).dout = dout := rfl
@[simp] theorem State.respond_events (rsp : Word) (dout : Bytes) : (s.respond rsp dout).events = s.events := rfl
@[simp] theorem State.respond_block (rsp : Word) (dout : Bytes) : (s.respond rsp dout).block = s.block := rfl

@[simp] theorem State.clearEvents_cfg : (s.clearEvents).cfg = s.cfg := rfl
@[simp] theorem State.clearEvents_inputs : (s.clearEvents).inputs = s.inputs := rfl
@[simp] theorem State.clearEvents_din : (s.clearEvents).din = s.din := rfl
@[simp] theorem State.clearEvents_rsp : (s.clearEvents).rsp = s.rsp := rfl
@[simp] theorem State.clearEvents_dout : (s.clearEvents).dout = s.dout := rfl
@[simp] theorem State.clearEvents_events : (s.clearEvents).events = [] := rfl
@[simp] theorem State.clearEvents_block : (s.clearEvents).block = s.block := rfl

@[simp] theorem State.latchDin_cfg (din : Bytes) : (s.latchDin din).cfg = s.cfg := rfl
@[simp] theorem State.latchDin_inputs (din : Bytes) : (s.latchDin din).inputs = s.inputs := rfl
@[simp] theorem State.latchDin_din (din : Bytes) : (s.latchDin din).din = din := rfl
@[simp] theorem State.latchDin_rsp (din : Bytes) : (s.latchDin din).rsp = s.rsp := rfl
@[simp] theorem State.latchDin_dout (din : Bytes) : (s.latchDin din).dout = s.dout := rfl
@[simp] theorem State.latchDin_events (din : Bytes) : (s.latchDin din).events = s.events := rfl
@[simp] theorem State.latchDin_block (din : Bytes) : (s.latchDin din).block = s.block := rfl

@[simp] theorem State.withInputs_cfg (inputs : List Input) : (s.withInputs inputs).cfg = s.cfg := rfl
@[simp] theorem State.withInputs_inputs (inputs : List Input) : (s.withInputs inputs).inputs = inputs := rfl
@[simp] theorem State.withInputs_din (inputs : List Input) : (s.withInputs inputs).din = s.din := rfl
@[simp] theorem State.withInputs_rsp (inputs : List Input) : (s.withInputs inputs).rsp = s.rsp := rfl
@[simp] theorem State.withInputs_dout (inputs : List Input) : (s.withInputs inputs).dout = s.dout := rfl
@[simp] theorem State.withInputs_events (inputs : List Input) : (s.withInputs inputs).events = s.events := rfl
@[simp] theorem State.withInputs_block (inputs : List Input) : (s.withInputs inputs).block = s.block := rfl

end Sys2Proof.Machine
end

