-- ==== Sys2Proof/Laws/Ops.lean ====
section
/-! SUPPORT. Once for each shared operation, everything it can do: the store by slots, the write loop of S_SUBMIT, the
sending loops, the segmentation, the block-wide checks. -/

namespace Sys2Proof.Machine

/-! ### The store by slots -/

/-- When a slot can be read, and what the read answers (R16, R56, R59). -/
theorem State.outRead_ok_iff (s : State) (i : Nat) (f : Bytes) : s.outRead i = .ok f ↔
    i < s.cfg.N_OUT ∧ i < s.block.outLen.toNat ∧ s.slot i = some f := by
  unfold State.outRead State.slot
  constructor
  · intro h
    split at h
    · cases h
    · split at h
      · cases h
      · split at h
        · next hf => cases h; exact ⟨by omega, by omega, hf⟩
        · cases h
  · rintro ⟨h1, h2, h3⟩
    rw [if_neg (by omega), if_neg (by omega), h3]

/-- The frame of a slot that holds one. -/
theorem State.frameOf_of_slot {s : State} {i : Nat} {f : Bytes} (h : s.slot i = some f) : s.frameOf i = f := by
  simp [State.frameOf, h]

/-- A read that answers, answers the frame of the slot. -/
theorem State.outRead_frameOf {s : State} {i : Nat} {f : Bytes} (h : s.outRead i = .ok f) : f = s.frameOf i :=
  (State.frameOf_of_slot ((s.outRead_ok_iff i f).1 h).2.2).symm

/-- Reading depends on the constants, the store and `out_len` only. -/
theorem State.outRead_congr {s t : State} (hc : t.cfg = s.cfg) (ho : t.block.out = s.block.out)
    (hl : t.block.outLen = s.block.outLen) (i : Nat) : t.outRead i = s.outRead i := by
  simp only [State.outRead, hc, ho, hl]

/-- The frame of a slot depends on the constants and the store only. -/
theorem State.frameOf_congr {s t : State} (hc : t.cfg = s.cfg) (ho : t.block.out = s.block.out) (i : Nat) :
    t.frameOf i = s.frameOf i := by
  simp only [State.frameOf, State.slot, hc, ho]

/-- The events of a range of slots depend on the constants and the store only. -/
theorem State.sends_congr {s t : State} (hc : t.cfg = s.cfg) (ho : t.block.out = s.block.out) (i n : Nat) :
    t.sends i n = s.sends i n := by
  simp only [State.sends, State.frameOf_congr hc ho]

@[simp] theorem State.sends_zero (s : State) (i : Nat) : s.sends i 0 = [] := rfl

theorem State.sends_succ (s : State) (i n : Nat) : s.sends i (n + 1) = .sSend (s.frameOf i) :: s.sends (i + 1) n := by
  simp [State.sends, List.range'_succ]

/-- A slot that exists is written whole (R16). -/
theorem State.outWrite_ok {s : State} {i : Nat} (f : Bytes) (h : i < s.cfg.N_OUT) :
    s.outWrite i f = .ok (s.setOut (memWrite s.block.out (i * s.cfg.C) f)) := by
  rw [State.outWrite, if_neg (by omega)]

/-! ### The write loop of S_SUBMIT -/

/-- With room for every frame, the write loop stores them all and changes nothing else (R134). -/
theorem storeFrames_ok : ∀ (ps : List Bytes) (i : Nat) (s : State), i + ps.length ≤ s.cfg.N_OUT →
    storeFrames ps i s = .ok (s.setOut (storedMem s.cfg ps i s.block.out))
  | [], _, _, _ => rfl
  | p :: ps, i, s, h => by
    simp only [List.length_cons] at h
    rw [storeFrames, State.outWrite_ok _ (by omega)]
    exact storeFrames_ok ps (i + 1) _ (by simp only [State.setOut_cfg]; omega)

/-- The bytes outside the slots written are as before. -/
theorem readByte_storedMem_other {cfg : Config} (hc : 7 ≤ cfg.C) : ∀ (ps : List Bytes) (i : Nat) (m : Memory) {x : Nat},
    (∀ p ∈ ps, p.length ≤ cfg.MP) → (x < i * cfg.C ∨ (i + ps.length) * cfg.C ≤ x) →
    readByte (storedMem cfg ps i m) x = readByte m x
  | [], _, _, _, _, _ => rfl
  | p :: ps, i, m, x, hp, hx => by
    simp only [List.length_cons] at hx
    have hl : (encodeFrame cfg (BitVec.ofNat 21 i) p).length = cfg.C :=
      encodeFrame_length _ hc (hp p (by simp))
    have e1 : (i + 1) * cfg.C = i * cfg.C + cfg.C := by ring
    have e2 : (i + (ps.length + 1)) * cfg.C = i * cfg.C + cfg.C + ps.length * cfg.C := by ring
    have e3 : (i + 1 + ps.length) * cfg.C = i * cfg.C + cfg.C + ps.length * cfg.C := by ring
    rw [storedMem, readByte_storedMem_other hc ps (i + 1) _ (fun q hq => hp q (by simp [hq])) (by omega),
      readByte_memWrite_other _ _ _ (by omega)]

/-- A slot outside those written is as before. -/
theorem memRead_storedMem_other {cfg : Config} (hc : 7 ≤ cfg.C) (ps : List Bytes) (i : Nat) (m : Memory) {k : Nat}
    (hp : ∀ p ∈ ps, p.length ≤ cfg.MP) (hk : k < i ∨ i + ps.length ≤ k) :
    memRead (storedMem cfg ps i m) (k * cfg.C) cfg.C = memRead m (k * cfg.C) cfg.C := by
  refine memRead_congr _ _ fun x h1 h2 => readByte_storedMem_other hc ps i m hp ?_
  rcases hk with hk | hk
  · left
    have := Nat.mul_le_mul_right cfg.C (show k + 1 ≤ i from hk)
    rw [Nat.add_mul, Nat.one_mul] at this
    omega
  · right
    have := Nat.mul_le_mul_right cfg.C hk
    omega

/-- The j-th slot written holds the frame of the j-th payload (R134). -/
theorem memRead_storedMem_same {cfg : Config} (hc : 7 ≤ cfg.C) : ∀ (ps : List Bytes) (i : Nat) (m : Memory) {j : Nat}
    {p : Bytes}, (∀ p ∈ ps, p.length ≤ cfg.MP) → ps[j]? = some p →
    memRead (storedMem cfg ps i m) ((i + j) * cfg.C) cfg.C = some (encodeFrame cfg (BitVec.ofNat 21 (i + j)) p)
  | [], _, _, _, _, _, hj => by simp at hj
  | q :: ps, i, m, 0, p, hp, hj => by
    simp only [List.getElem?_cons_zero, Option.some.injEq] at hj
    subst hj
    have hl : (encodeFrame cfg (BitVec.ofNat 21 i) q).length = cfg.C := encodeFrame_length _ hc (hp q (by simp))
    rw [storedMem, Nat.add_zero, memRead_storedMem_other hc ps (i + 1) _ (fun r hr => hp r (by simp [hr])) (by omega)]
    have h2 := memRead_memWrite_same (encodeFrame cfg (BitVec.ofNat 21 i) q) m (i * cfg.C)
    rwa [hl] at h2
  | q :: ps, i, m, j + 1, p, hp, hj => by
    rw [storedMem, show i + (j + 1) = i + 1 + j by omega]
    exact memRead_storedMem_same hc ps (i + 1) _ (fun r hr => hp r (by simp [hr])) (by simpa using hj)

/-- The write loop keeps the canonical form. -/
theorem storedMem_wf {cfg : Config} : ∀ (ps : List Bytes) (i : Nat) {m : Memory}, Memory.wf m →
    Memory.wf (storedMem cfg ps i m)
  | [], _, _, h => h
  | _ :: ps, i, _, h => storedMem_wf ps (i + 1) (memWrite_wf _ _ h)

/-- The write loop lists no byte above the slots it writes. -/
theorem mem_storedMem {cfg : Config} (hc : 7 ≤ cfg.C) : ∀ (ps : List Bytes) (i : Nat) {m : Memory} {x : Host.Cell},
    (∀ p ∈ ps, p.length ≤ cfg.MP) → x ∈ storedMem cfg ps i m → x.1 < (i + ps.length) * cfg.C ∨ x ∈ m
  | [], _, _, _, _, h => .inr h
  | p :: ps, i, m, x, hp, h => by
    have hl : (encodeFrame cfg (BitVec.ofNat 21 i) p).length = cfg.C := encodeFrame_length _ hc (hp p (by simp))
    have e2 : (i + (ps.length + 1)) * cfg.C = i * cfg.C + cfg.C + ps.length * cfg.C := by ring
    have e3 : (i + 1 + ps.length) * cfg.C = i * cfg.C + cfg.C + ps.length * cfg.C := by ring
    rw [List.length_cons, e2]
    rcases mem_storedMem hc ps (i + 1) (fun q hq => hp q (by simp [hq])) h with h | h
    · left; omega
    · rcases mem_memWrite _ h with h | h
      · left; omega
      · exact .inr h

/-! ### The sending loops -/

/-- The loop of S_TMO, when every slot can be read (R148). -/
theorem sendSlots_ok : ∀ (n i : Nat) (s : State), s.readable i n →
    sendSlots n i s = .ok { s with events := s.events ++ s.sends i n }
  | 0, _, s, _ => by simp [sendSlots]
  | n + 1, i, s, h => by
    simp only [sendSlots, h i (by omega) (by omega)]
    have hr : (s.emit (.sSend (s.frameOf i))).readable (i + 1) n := by
      intro j h1 h2
      exact h j (by omega) (by omega)
    rw [sendSlots_ok n (i + 1) _ hr, State.sends_succ]
    simp [State.emit, State.sends_congr (s := s) (t := { s with events := s.events ++ [.sSend (s.frameOf i)] }) rfl rfl]

/-- The loop of S_TMO ends without a fault only where every slot can be read. -/
theorem readable_of_sendSlots : ∀ {n i : Nat} {s t : State}, sendSlots n i s = .ok t → s.readable i n
  | 0, _, _, _, _ => fun j h1 h2 => by omega
  | n + 1, i, s, t, h => by
    rw [sendSlots] at h
    split at h
    · cases h
    · next f hf =>
      intro j h1 h2
      by_cases hj : j = i
      · subst hj
        rw [hf, State.outRead_frameOf hf]
      · exact readable_of_sendSlots h j (by omega) (by omega)

/-- One turn of pump's loop, written out by fields. -/
theorem State.pumpOne_eq (s : State) (starts : Bool) (f : Bytes) : s.pumpOne starts f = { s with
    block := { s.block with nextSeqNum := s.block.nextSeqNum + 1#22, tmrRun := s.block.tmrRun || starts }
    events := s.events ++ ((if starts then [.tmrStart s.cfg.T] else []) ++ [.sSend f]) } := by
  cases starts <;> simp [State.pumpOne, State.startTimer, State.emit, State.setNext, State.setTmrRun]

/-- How far one turn of pump's loop moves `next_seq_num` and what it leaves to transmit. -/
theorem State.pumpOne_progress {s : State} (starts : Bool) (f : Bytes)
    (h : s.block.nextSeqNum.toNat < s.block.base.toNat + s.cfg.W ∧ s.block.nextSeqNum.toNat < s.block.outLen.toNat) :
    (s.pumpOne starts f).block.nextSeqNum.toNat = s.block.nextSeqNum.toNat + 1 ∧
    s.admissible = (s.pumpOne starts f).admissible + 1 := by
  have hn := s.block.outLen.isLt
  have hnext : (s.block.nextSeqNum + 1#22).toNat = s.block.nextSeqNum.toNat + 1 := by
    rw [BitVec.toNat_add]; simp; omega
  refine ⟨by rw [State.pumpOne_eq, hnext], ?_⟩
  rw [State.pumpOne_eq]
  simp only [State.admissible, hnext]
  omega

/-- The loop of pump, when it has turns enough and every slot it comes to can be read (R140, R141). -/
theorem pumpLoop_ok : ∀ (fuel : Nat) (wasEmpty first : Bool) (s : State), s.admissible ≤ fuel →
    s.readable s.block.nextSeqNum.toNat s.admissible →
    pumpLoop fuel wasEmpty first s = .ok { s with
      block := { s.block with
        nextSeqNum := BitVec.ofNat 22 (s.block.nextSeqNum.toNat + s.admissible)
        tmrRun := s.block.tmrRun || (wasEmpty && first && decide (0 < s.admissible)) }
      events := s.events ++ ((if wasEmpty && first && decide (0 < s.admissible) then [.tmrStart s.cfg.T] else []) ++
        s.sends s.block.nextSeqNum.toNat s.admissible) }
  | 0, wasEmpty, first, s, h, _ => by
    have h0 : s.admissible = 0 := by omega
    simp [pumpLoop, h0]
  | fuel + 1, wasEmpty, first, s, h, hr => by
    rw [pumpLoop]
    split
    · next hg =>
      obtain ⟨hn, ha⟩ := State.pumpOne_progress (wasEmpty && first) (s.frameOf s.block.nextSeqNum.toNat) hg
      have he := State.pumpOne_eq s (wasEmpty && first) (s.frameOf s.block.nextSeqNum.toNat)
      simp only [hr _ (Nat.le_refl _) (by omega)]
      generalize s.pumpOne (wasEmpty && first) (s.frameOf s.block.nextSeqNum.toNat) = s2 at hn ha he
      rw [pumpLoop_ok fuel wasEmpty false s2 (by omega) fun j h1 h2 => by
        have := hr j (by omega) (by omega)
        subst he
        exact this]
      rw [hn, ha, State.sends_succ, State.sends_congr (s := s) (t := s2) (by rw [he]) (by rw [he])]
      generalize s2.admissible = n
      subst he
      cases wasEmpty <;> cases first <;> simp [Nat.add_assoc, Nat.add_comm 1]
    · next hg =>
      have h0 : s.admissible = 0 := by
        simp only [State.admissible]; omega
      simp [h0]

/-- The loop of pump ends without a fault only where every slot it comes to can be read. -/
theorem readable_of_pumpLoop : ∀ {fuel : Nat} {wasEmpty first : Bool} {s t : State}, s.admissible ≤ fuel →
    pumpLoop fuel wasEmpty first s = .ok t → s.readable s.block.nextSeqNum.toNat s.admissible
  | 0, _, _, s, _, h, _ => fun j h1 h2 => by omega
  | fuel + 1, wasEmpty, first, s, t, h, hp => by
    rw [pumpLoop] at hp
    split at hp
    · next hg =>
      split at hp
      · cases hp
      · next f hf =>
        obtain ⟨hn, ha⟩ := State.pumpOne_progress (wasEmpty && first) f hg
        have he := State.pumpOne_eq s (wasEmpty && first) f
        generalize s.pumpOne (wasEmpty && first) f = s2 at hn ha he hp
        have ih := readable_of_pumpLoop (by omega) hp
        intro j h1 h2
        by_cases hj : j = s.block.nextSeqNum.toNat
        · subst hj
          rw [hf, State.outRead_frameOf hf]
        · have := ih j (by omega) (by omega)
          subst he
          exact this
    · next hg =>
      intro j h1 h2
      simp only [State.admissible] at h2
      omega

/-- Pump has turns enough (R151). -/
theorem State.admissible_le (s : State) : s.admissible ≤ s.block.outLen.toNat - s.block.nextSeqNum.toNat := by
  simp only [State.admissible]; omega

/-- Pump, when every slot it comes to can be read (R140, R141). -/
theorem pump_ok {s : State} (h : s.readable s.block.nextSeqNum.toNat s.admissible) : pump s = .ok s.pumpResult := by
  rw [pump, pumpLoop_ok _ _ _ _ s.admissible_le h]
  simp [State.pumpResult, State.startsWindow]

/-- Everything pump can do when it ends without a fault. -/
theorem pump_inv {s t : State} (h : pump s = .ok t) :
    t = s.pumpResult ∧ s.readable s.block.nextSeqNum.toNat s.admissible := by
  have hr := readable_of_pumpLoop s.admissible_le h
  rw [pump_ok hr] at h
  exact ⟨(Except.ok.inj h).symm, hr⟩

/-- Everything the loop of S_TMO can do when it ends without a fault. -/
theorem sendSlots_inv {n i : Nat} {s t : State} (h : sendSlots n i s = .ok t) :
    t = { s with events := s.events ++ s.sends i n } ∧ s.readable i n := by
  have hr := readable_of_sendSlots h
  rw [sendSlots_ok _ _ _ hr] at h
  exact ⟨(Except.ok.inj h).symm, hr⟩

/-! ### Segmentation -/

/-- There are as many payloads as `ceil(|m| / MP)` (R134). -/
@[simp] theorem segments_length (cfg : Config) (m : Bytes) : (segments cfg m).length = segmentCount cfg m.length := by
  simp [segments]

/-- Payload j is what R135 says. -/
theorem segments_getElem? {cfg : Config} {m : Bytes} {j : Nat} (h : j < segmentCount cfg m.length) :
    (segments cfg m)[j]? = some (segment cfg m j) := by
  simp [segments, h]

/-- No payload is longer than MP (R135). -/
theorem segment_length_le (cfg : Config) (m : Bytes) (j : Nat) : (segment cfg m j).length ≤ cfg.MP := by
  simp [segment]

/-- No payload is empty (R135, R136). -/
theorem segment_length_pos {cfg : Config} {m : Bytes} {j : Nat} (hmp : 0 < cfg.MP)
    (h : j < segmentCount cfg m.length) : 0 < (segment cfg m j).length := by
  simp only [segmentCount] at h
  have h1 : (j + 1) * cfg.MP ≤ m.length + cfg.MP - 1 := (Nat.le_div_iff_mul_le hmp).1 h
  rw [Nat.add_mul, Nat.one_mul] at h1
  simp only [segment, List.length_take, List.length_drop]
  omega

/-- No payload of a message is longer than MP (R135). -/
theorem segments_le {cfg : Config} {m p : Bytes} (h : p ∈ segments cfg m) : p.length ≤ cfg.MP := by
  simp only [segments, List.mem_map] at h
  obtain ⟨j, _, rfl⟩ := h
  exact segment_length_le cfg m j

/-! ### The block-wide checks and the ends of an operation -/

/-- The three ways an operation goes through the block-wide checks (R200). -/
theorem State.serve_cases (s : State) (i : Instr) (body : State → Outcome) :
    (s.block.abort = true ∧ s.serve i body = s.clearEvents.raise .aborted none 0#21) ∨
    (s.block.abort = false ∧ s.serves i = false ∧ s.serve i body = s.clearEvents.raise .notOpen none 0#21) ∨
    (s.block.abort = false ∧ s.serves i = true ∧ s.serve i body = body s.clearEvents) := by
  unfold State.serve
  cases s.block.abort <;> cases s.serves i <;> simp

/-- An operation that is served runs (R200). -/
theorem State.serve_run {s : State} {i : Instr} {body : State → Outcome} (ha : s.block.abort = false)
    (hs : s.serves i = true) : s.serve i body = body s.clearEvents := by
  simp [State.serve, ha, hs]

/-- An operation whose DIN is a frame runs on it (R79). -/
theorem State.withFrame_run {s : State} {body : Bytes → Outcome} (h : s.din.length = s.cfg.C) :
    s.withFrame body = body s.din := by
  simp [State.withFrame, h]

/-- What `raise` answers (R83, R190). -/
theorem State.raise_eq (s : State) (st : Status) (c : Option Cause) (q : SeqNum) :
    s.raise st c q = .next { s with rsp := responseWord st c q, dout := [] } := rfl

/-- What `finish` answers (R83). -/
theorem State.finish_eq (s : State) (q : SeqNum) (dout : Bytes) :
    s.finish q dout = .next { s with rsp := responseWord .ok none q, dout := dout } := rfl

end Sys2Proof.Machine
end

