-- ==== Sys2Proof/Laws/Exec.lean ====
section
/-! SUPPORT. Once for each meaning, everything it can do when it answers a next state. -/

namespace Sys2Proof.Machine

/-- The operation is turned away by the block-wide checks: ABORTED or NOT_OPEN, nothing changed, no event (R193,
R197, R200). -/
def State.turnedAway (s : State) (i : Instr) (t : State) : Prop :=
  (s.block.abort = true ∧ t = s.answered s.block 0x70000000#32 [] []) ∨
  (s.block.abort = false ∧ s.serves i = false ∧ t = s.answered s.block 0x30000000#32 [] [])

/-- The operation is served: the bit `abort` is clear and the unit is in a mode that serves it. -/
def State.served (s : State) (i : Instr) : Prop := s.block.abort = false ∧ s.serves i = true

/-- The block-wide checks turn an operation away or run it. -/
theorem State.serve_next {s t : State} {i : Instr} {body : State → Outcome} (h : s.serve i body = .next t) :
    s.turnedAway i t ∨ (s.served i ∧ body s.clearEvents = .next t) := by
  rcases s.serve_cases i body with ⟨ha, e⟩ | ⟨ha, hs, e⟩ | ⟨ha, hs, e⟩ <;> rw [e] at h
  · cases h; exact .inl (.inl ⟨ha, rfl⟩)
  · cases h; exact .inl (.inr ⟨ha, hs, rfl⟩)
  · exact .inr ⟨⟨ha, hs⟩, h⟩

/-- An operation whose DIN is a frame has a step only beside a frame (R79). -/
theorem State.withFrame_next {s t : State} {body : Bytes → Outcome} (h : s.withFrame body = .next t) :
    s.din.length = s.cfg.C ∧ body s.din = .next t := by
  unfold State.withFrame at h
  split at h
  · next hc => exact ⟨hc, h⟩
  · cases h

/-- A store access followed by the rest of the operation answers only where the access did not stop. -/
theorem orFault_next {r : Except Fault State} {t : State} {body : State → Outcome} (h : orFault r body = .next t) :
    ∃ s, r = .ok s ∧ body s = .next t := by
  unfold orFault at h
  split at h
  · cases h
  · exact ⟨_, rfl, h⟩

/-- The response word of a corrupt frame (R83 to R85). -/
theorem responseWord_corrupt (c : Cause) : responseWord .corrupt (some c) 0#21 = corruptResponse c := by
  cases c <;> rfl

/-- The response word of an operation that ends well: the sequence number, zero-extended (R83). -/
theorem responseWord_ok (q : SeqNum) : responseWord .ok none q = q.setWidth 32 := by
  apply BitVec.eq_of_getLsbD_eq
  intro i hi
  simp only [responseWord, Status.code, causeField, BitVec.getLsbD_append, BitVec.getLsbD_setWidth]
  interval_cases i <;> simp

/-- The response word of an out-of-order frame (R83, R192). -/
theorem responseWord_outOfOrder (q : SeqNum) :
    responseWord .outOfOrder none q = 0x20000000#32 ||| q.setWidth 32 := by
  apply BitVec.eq_of_getLsbD_eq
  intro i hi
  simp only [responseWord, Status.code, causeField, BitVec.getLsbD_append, BitVec.getLsbD_or,
    BitVec.getLsbD_setWidth]
  interval_cases i <;> simp

/-- The fields of a response word are those it was made of (R83). -/
theorem responseWord_fields (st : Status) (c : Option Cause) (q : SeqNum) :
    (responseWord st c q).extractLsb' 28 4 = st.code ∧ (responseWord st c q).extractLsb' 26 2 = causeField c ∧
    (responseWord st c q).extractLsb' 21 5 = 0#5 ∧ (responseWord st c q).extractLsb' 0 21 = q := by
  refine ⟨?_, ?_, ?_, ?_⟩ <;>
  · apply BitVec.eq_of_getLsbD_eq
    intro i hi
    simp only [responseWord, BitVec.getLsbD_extractLsb', BitVec.getLsbD_append]
    interval_cases i <;> simp

/-- Everything ENC can do (R106, R107). -/
theorem execEnc_next {q : SeqNum} {s t : State} (h : execEnc q s = .next t) : s.turnedAway (.enc q) t ∨
    (s.served (.enc q) ∧
      ((s.cfg.MP < s.din.length ∧ t = s.answered s.block 0x40000000#32 [] []) ∨
       (s.din.length ≤ s.cfg.MP ∧ t = s.answered s.block 0x00000000#32 (encodeFrame s.cfg q s.din) []))) := by
  rcases State.serve_next h with h | ⟨hs, h⟩
  · exact .inl h
  · refine .inr ⟨hs, ?_⟩
    split at h
    · next hl => cases h; exact .inl ⟨hl, rfl⟩
    · next hl => cases h; exact .inr ⟨Nat.le_of_not_lt hl, rfl⟩

/-- Everything DEC can do (R112). -/
theorem execDec_next {s t : State} (h : execDec s = .next t) : s.din.length = s.cfg.C ∧ (s.turnedAway .dec t ∨
    (s.served .dec ∧
      ((∃ q p, decodeFrame s.cfg s.din = .ok q p ∧ t = s.answered s.block (q.setWidth 32) p []) ∨
       (∃ c, decodeFrame s.cfg s.din = .corrupt c ∧ t = s.answered s.block (corruptResponse c) [] [])))) := by
  obtain ⟨hl, h⟩ := State.withFrame_next h
  refine ⟨hl, ?_⟩
  rcases State.serve_next h with h | ⟨hs, h⟩
  · exact .inl h
  · refine .inr ⟨hs, ?_⟩
    simp only [State.clearEvents_cfg] at h
    rcases decodeFrame_cases s.cfg s.din with ⟨q, p, hd⟩ | ⟨c, hd⟩ <;> rw [hd] at h
    · cases h; exact .inl ⟨q, p, hd, by rw [← responseWord_ok]; rfl⟩
    · cases h; exact .inr ⟨c, hd, by rw [← responseWord_corrupt]; rfl⟩

/-- Everything S_INIT can do (R132). -/
theorem execSInit_next {s t : State} (h : execSInit s = .next t) : s.turnedAway .sInit t ∨
    (s.served .sInit ∧ t = s.answered
      { s.block with
        sMode := .opened, base := 0#22, nextSeqNum := 0#22, outLen := 0#22, tmrRun := false }
      0x00000000#32 [] [.tmrStop]) := by
  rcases State.serve_next h with h | ⟨hs, h⟩
  · exact .inl h
  · cases h; exact .inr ⟨hs, rfl⟩

/-- Everything S_FINAL can do (R133). -/
theorem execSFinal_next {s t : State} (h : execSFinal s = .next t) : s.turnedAway .sFinal t ∨
    (s.served .sFinal ∧ t = s.answered { s.block with sMode := .drain } 0x00000000#32 [] []) := by
  rcases State.serve_next h with h | ⟨hs, h⟩
  · exact .inl h
  · cases h; exact .inr ⟨hs, rfl⟩

/-- The state from which S_SUBMIT pumps: the frames stored, `out_len` raised past them (R134). -/
def State.submitted (s : State) : State :=
  { s with
    events := []
    block := { s.block with
      out := storedMem s.cfg (segments s.cfg s.din) s.block.outLen.toNat s.block.out
      outLen := BitVec.ofNat 22 (s.block.outLen.toNat + segmentCount s.cfg s.din.length) } }

/-- Everything S_SUBMIT can do (R134 to R141). -/
theorem execSSubmit_next {s t : State} (h : execSSubmit s = .next t) : s.turnedAway .sSubmit t ∨
    (s.served .sSubmit ∧
      ((s.cfg.N_OUT < s.block.outLen.toNat + segmentCount s.cfg s.din.length ∧
          t = s.answered { s.block with abort := true } 0x60000000#32 [] []) ∨
       (s.block.outLen.toNat + segmentCount s.cfg s.din.length ≤ s.cfg.N_OUT ∧
          s.submitted.readable s.submitted.block.nextSeqNum.toNat s.submitted.admissible ∧
          t = s.submitted.pumpResult.respond 0x00000000#32 []))) := by
  rcases State.serve_next h with h | ⟨hs, h⟩
  · exact .inl h
  · refine .inr ⟨hs, ?_⟩
    by_cases hl : s.cfg.N_OUT < s.block.outLen.toNat + segmentCount s.cfg s.din.length
    · replace h := (if_pos hl).symm.trans h
      cases h; exact .inl ⟨hl, rfl⟩
    · replace h := (if_neg hl).symm.trans h
      refine .inr ⟨Nat.le_of_not_lt hl, ?_⟩
      rw [storeFrames_ok _ _ _ (by simpa using hl)] at h
      obtain ⟨s1, h1, h⟩ := orFault_next h
      cases h1
      obtain ⟨s2, h2, h⟩ := orFault_next h
      obtain ⟨h3, hr⟩ := pump_inv h2
      cases h
      exact ⟨hr, by rw [h3]; rfl⟩

/-- The state from which S_ACK pumps: `base` moved, the timer action taken (R143, R144). -/
def State.ackedBy (s : State) (q : SeqNum) : State :=
  (s.clearEvents.setBase (ackedBase s.block.base s.block.nextSeqNum q)).ackTimer

/-- Everything S_ACK can do (R142 to R147). -/
theorem execSAck_next {s t : State} (h : execSAck s = .next t) : s.din.length = s.cfg.C ∧ (s.turnedAway .sAck t ∨
    (s.served .sAck ∧
      ((∃ c, decodeFrame s.cfg s.din = .corrupt c ∧ t = s.answered s.block (corruptResponse c) [] []) ∨
       (∃ q p, decodeFrame s.cfg s.din = .ok q p ∧
          (s.ackedBy q).readable (s.ackedBy q).block.nextSeqNum.toNat (s.ackedBy q).admissible ∧
          t = (s.ackedBy q).pumpResult.respond (q.setWidth 32) [])))) := by
  obtain ⟨hl, h⟩ := State.withFrame_next h
  refine ⟨hl, ?_⟩
  rcases State.serve_next h with h | ⟨hs, h⟩
  · exact .inl h
  · refine .inr ⟨hs, ?_⟩
    simp only [State.clearEvents_cfg] at h
    rcases decodeFrame_cases s.cfg s.din with ⟨q, p, hd⟩ | ⟨c, hd⟩ <;> rw [hd] at h
    · obtain ⟨s2, h2, h⟩ := orFault_next h
      obtain ⟨h3, hr⟩ := pump_inv h2
      cases h
      exact .inr ⟨q, p, hd, hr, by rw [h3, responseWord_ok]; rfl⟩
    · cases h; exact .inl ⟨c, hd, by rw [← responseWord_corrupt]; rfl⟩

/-- Everything S_TMO can do (R148 to R150). -/
theorem execSTmo_next {s t : State} (h : execSTmo s = .next t) : s.turnedAway .sTmo t ∨
    (s.served .sTmo ∧ s.readable s.block.base.toNat (s.block.nextSeqNum.toNat - s.block.base.toNat) ∧
      t = s.answered { s.block with tmrRun := true } 0x00000000#32 []
        (.tmrStart s.cfg.T :: s.sends s.block.base.toNat (s.block.nextSeqNum.toNat - s.block.base.toNat))) := by
  rcases State.serve_next h with h | ⟨hs, h⟩
  · exact .inl h
  · refine .inr ⟨hs, ?_⟩
    obtain ⟨s2, h2, h⟩ := orFault_next h
    obtain ⟨h3, hr⟩ := sendSlots_inv h2
    cases h
    exact ⟨hr, by rw [h3]; rfl⟩

/-- Everything R_INIT can do (R171). -/
theorem execRInit_next {s t : State} (h : execRInit s = .next t) : s.turnedAway .rInit t ∨
    (s.served .rInit ∧
      t = s.answered { s.block with rOpen := true, expectedSeqNum := 0#22 } 0x00000000#32 [] []) := by
  rcases State.serve_next h with h | ⟨hs, h⟩
  · exact .inl h
  · cases h; exact .inr ⟨hs, rfl⟩

/-- Everything R_FINAL can do (R172). -/
theorem execRFinal_next {s t : State} (h : execRFinal s = .next t) : s.turnedAway .rFinal t ∨
    (s.served .rFinal ∧ t = s.answered { s.block with rOpen := false } 0x00000000#32 [] []) := by
  rcases State.serve_next h with h | ⟨hs, h⟩
  · exact .inl h
  · cases h; exact .inr ⟨hs, rfl⟩

/-- Everything R_FRAME can do (R173 to R178, R180). -/
theorem execRFrame_next {s t : State} (h : execRFrame s = .next t) :
    s.din.length = s.cfg.C ∧ (s.turnedAway .rFrame t ∨
    (s.served .rFrame ∧
      ((∃ c, decodeFrame s.cfg s.din = .corrupt c ∧ t = s.answered s.block (corruptResponse c) [] []) ∨
       (∃ q p, decodeFrame s.cfg s.din = .ok q p ∧ q.toNat = s.block.expectedSeqNum.toNat ∧
          t = s.answered { s.block with expectedSeqNum := BitVec.ofNat 22 (q.toNat + 1) } (q.setWidth 32) []
            [.rDeliver p, .rSend s.din]) ∨
       (∃ q p, decodeFrame s.cfg s.din = .ok q p ∧ q.toNat ≠ s.block.expectedSeqNum.toNat ∧
          t = s.answered s.block (0x20000000#32 ||| q.setWidth 32) [] [])))) := by
  obtain ⟨hl, h⟩ := State.withFrame_next h
  refine ⟨hl, ?_⟩
  rcases State.serve_next h with h | ⟨hs, h⟩
  · exact .inl h
  · refine .inr ⟨hs, ?_⟩
    simp only [State.clearEvents_cfg, State.clearEvents_block] at h
    rcases decodeFrame_cases s.cfg s.din with ⟨q, p, hd⟩ | ⟨c, hd⟩ <;> rw [hd] at h
    · have hq : (q.setWidth 22).toNat = q.toNat := by
        have := q.isLt
        rw [BitVec.toNat_setWidth]; omega
      by_cases he : q.setWidth 22 = s.block.expectedSeqNum
      · replace h := (if_pos he).symm.trans h
        cases h
        have hn : s.block.expectedSeqNum + 1#22 = BitVec.ofNat 22 (q.toNat + 1) := by
          rw [← he]
          apply BitVec.eq_of_toNat_eq
          have := q.isLt
          simp [BitVec.toNat_add, hq]
        exact .inr (.inl ⟨q, p, hd, by rw [← he, hq],
          by rw [← responseWord_ok, ← hn]; rfl⟩)
      · replace h := (if_neg he).symm.trans h
        cases h
        exact .inr (.inr ⟨q, p, hd, fun e => he (BitVec.eq_of_toNat_eq (by rw [hq, e])),
          by rw [← responseWord_outOfOrder]; rfl⟩)
    · cases h; exact .inl ⟨c, hd, by rw [← responseWord_corrupt]; rfl⟩

end Sys2Proof.Machine
end

