-- ==== Sys2Proof/Laws/PerInstr.lean ====
section
/-! SUPPORT. The per-instruction family TableRow: the word of every operation selects that operation's row of the opcode
map (30_encoding.md R80, R90). -/

namespace Sys2Proof

/-- Some row of the opcode map has the operation's mnemonic and is selected by the operation's word. -/
def Laws.TableRow.Statement (i : Instr) : Prop :=
  ∃ row ∈ opcodeMap, row.mnemonic = i.mnemonic ∧ row.selects (encode i) = true

theorem Laws.TableRow.enc (seq : SeqNum) : Laws.TableRow.Statement (.enc seq) := by
  refine ⟨⟨"ENC", 0x10000000#32, 0xFFE00000#32⟩, by decide, rfl, ?_⟩
  rw [OpcodeRow.selects, beq_iff_eq]
  exact (encMask_of_fields 0x1#4 0#7 seq).trans (by decide)

theorem Laws.TableRow.dec : Laws.TableRow.Statement .dec :=
  ⟨opcodeMap[1], by decide, rfl, by decide⟩

theorem Laws.TableRow.sInit : Laws.TableRow.Statement .sInit :=
  ⟨opcodeMap[2], by decide, rfl, by decide⟩

theorem Laws.TableRow.sFinal : Laws.TableRow.Statement .sFinal :=
  ⟨opcodeMap[3], by decide, rfl, by decide⟩

theorem Laws.TableRow.sSubmit : Laws.TableRow.Statement .sSubmit :=
  ⟨opcodeMap[4], by decide, rfl, by decide⟩

theorem Laws.TableRow.sAck : Laws.TableRow.Statement .sAck :=
  ⟨opcodeMap[5], by decide, rfl, by decide⟩

theorem Laws.TableRow.sTmo : Laws.TableRow.Statement .sTmo :=
  ⟨opcodeMap[6], by decide, rfl, by decide⟩

theorem Laws.TableRow.rInit : Laws.TableRow.Statement .rInit :=
  ⟨opcodeMap[7], by decide, rfl, by decide⟩

theorem Laws.TableRow.rFinal : Laws.TableRow.Statement .rFinal :=
  ⟨opcodeMap[8], by decide, rfl, by decide⟩

theorem Laws.TableRow.rFrame : Laws.TableRow.Statement .rFrame :=
  ⟨opcodeMap[9], by decide, rfl, by decide⟩

end Sys2Proof
end

