-- ==== Sys2Proof/Laws/Step.lean ====
section
/-! SUPPORT. Once for the step, everything it can do with a command or with a reset. -/

namespace Sys2Proof.Machine

/-- Everything a step can do with a command: ILLEGAL_CMD, or the operation its word decodes to (R81, R200). -/
theorem step_command_next {s t : State} {c : Command} {rest : List Input} (hi : s.inputs = .command c :: rest)
    (h : step s = .next t) : s.cfg.legal = true ∧
    ((∃ e, decode c.word = .error e ∧
        t = State.answered { s with inputs := rest, din := c.din } s.block 0x50000000#32 [] []) ∨
     (∃ i, decode c.word = .ok i ∧ exec i { s with inputs := rest, din := c.din } = .next t)) := by
  unfold step at h
  split at h
  · next hl =>
    refine ⟨hl, ?_⟩
    simp only [hi, runCommand] at h
    cases hd : decode c.word with
    | error e => rw [hd] at h; cases h; exact .inl ⟨e, rfl, rfl⟩
    | ok i => rw [hd] at h; exact .inr ⟨i, rfl, h⟩
  · cases h

/-- Everything a step can do with a reset between operations (R220, R221). -/
theorem step_reset_next {s t : State} {cfg : Config} {rest : List Input} (hi : s.inputs = .reset cfg :: rest)
    (h : step s = .next t) : cfg.legal = true ∧ t = { State.resetWith cfg with inputs := rest } := by
  unfold step at h
  split at h
  · simp only [hi, runReset] at h
    split at h
    · next hl => cases h; exact ⟨hl, rfl⟩
    · cases h
  · cases h

end Sys2Proof.Machine
end

