-- ==== Sys2Proof/Laws/System.lean ====
section
/-! SUPPORT. What a command to either end of the closed system can do, once, and the payloads of a session
(Machine/Environment.lean, Safety.lean). -/

namespace Sys2Proof.Machine

@[simp] theorem State.storedPayloads_length (s : State) : s.storedPayloads.length = s.block.outLen.toNat := by
  simp [State.storedPayloads]

theorem State.storedPayloads_getElem? {s : State} {i : Nat} (h : i < s.block.outLen.toNat) :
    s.storedPayloads[i]? = some (decodedPayload (s.frameOf i)) := by
  simp [State.storedPayloads, h]

/-- A command to the sender's block changes that block, the timer and the data link, and nothing else. -/
theorem System.toSender_some {y y' : System} {c : Command} (h : y.toSender c = some y') :
    ∃ t, step (y.snd.present c) = .next t ∧ y' = { y with
      snd := t
      armed := timerAfter y.armed t.events
      dataLink := y.dataLink ++ t.events.filterMap sentFrame } := by
  unfold System.toSender at h
  split at h
  · next t ht => exact ⟨t, ht, (Option.some.inj h).symm⟩
  · cases h
  · cases h

/-- A command to the receiver's block changes that block, the ack link and what was delivered, and nothing else. -/
theorem System.toReceiver_some {y y' : System} {c : Command} (h : y.toReceiver c = some y') :
    ∃ t, step (y.rcv.present c) = .next t ∧ y' = { y with
      rcv := t
      ackLink := y.ackLink ++ t.events.filterMap ackedFrame
      delivered := y.delivered ++ t.events.filterMap deliveredFragment } := by
  unfold System.toReceiver at h
  split at h
  · next t ht => exact ⟨t, ht, (Option.some.inj h).symm⟩
  · cases h
  · cases h

end Sys2Proof.Machine
end

