-- ==== Sys2Proof/Tests/Slice0.lean ====
section
/-! SUPPORT. The tests: what WellFormed refuses, the words of the opcode map, one step of each operation from the vectors
V1 to V83 and the programs P1 to P6 of 95_test_vectors.md, and for every statement with hypotheses a witness that meets
them together. -/

namespace Sys2Proof.Tests

open Sys2Proof.Machine

/-! ### Helpers -/

/-- The next state of an outcome, or the given state. -/
def nextOf (d : State) : Host.Outcome State Fault Refusal → State
  | .next s => s
  | .fault _ => d
  | .refused _ => d

/-- The outcome is a next state. -/
def isNext : Host.Outcome State Fault Refusal → Bool
  | .next _ => true
  | .fault _ => false
  | .refused _ => false

theorem eq_next_of_isNext {o : Host.Outcome State Fault Refusal} (d : State) (h : isNext o = true) :
    o = .next (nextOf d o) := by
  cases o <;> first | rfl | cases h

/-- The state after these commands, each run on the state with nothing else presented. -/
def after (s : State) : List Command → State
  | [] => s
  | c :: cs => after (nextOf s (step (s.present c))) cs

/-- The status outputs, in the order of R31: s_mode, base, next, out_len, tmr_run, r_open, expected, abort. -/
def shown (s : State) : StatusOutputs := s.statusOutputs

/-- The constants of the vectors. -/
def vec : State := State.reset

/-- Frames V1 and V2 of the vectors. -/
def v1 : Bytes := [10, 0, 0, 0, 7, 6, 4, 0x48, 0x45, 0x4C, 0x4C, 0x4F, 0x57, 0x4F, 0x52, 0x4C, 0x44]
def v2 : Bytes := [1, 0, 0, 1, 0, 3, 4, 0x21, 0, 0, 0, 0, 0, 0, 0, 0, 0]

/-- "HELLOWORLD!". -/
def hello : Bytes := [0x48, 0x45, 0x4C, 0x4C, 0x4F, 0x57, 0x4F, 0x52, 0x4C, 0x44, 0x21]

/-- P1 after its steps 1 to 3. -/
def p1 : State := after vec [⟨0x30000000#32, []⟩, ⟨0x80000000#32, []⟩, ⟨0x50000000#32, hello⟩]

/-! ### WellFormed refuses ill-formed constants and operands -/

theorem test_vectors_config_legal : Config.legal Config.vectors = true := by decide
theorem test_capacity_low : Config.legal { Config.vectors with C := 7 } = false := by decide
theorem test_capacity_high : Config.legal { Config.vectors with C := 263 } = false := by decide
theorem test_window_low : Config.legal { Config.vectors with W := 0 } = false := by decide
theorem test_window_high : Config.legal { Config.vectors with W := 2097153 } = false := by decide
theorem test_depth_low : Config.legal { Config.vectors with N_OUT := 0 } = false := by decide
theorem test_depth_high : Config.legal { Config.vectors with N_OUT := 2097153 } = false := by decide
theorem test_extremes_legal : Config.legal ⟨8, 1, 0, 1⟩ = true ∧ Config.legal ⟨262, 2097152, 0, 2097152⟩ = true := by
  decide
theorem test_short_frame_refused : Instr.wellFormed Config.vectors (zeros 16) .sAck = false := by decide
theorem test_long_frame_refused : Instr.wellFormed Config.vectors (zeros 18) .rFrame = false := by decide
theorem test_frame_accepted : Instr.wellFormed Config.vectors (zeros 17) .dec = true := by decide
theorem test_step_refuses_config : step (State.resetWith ⟨7, 1, 0, 1⟩) = .refused .configOutOfRange := by
  rfl

/-! ### Decoding: words written out bit by bit from R78 and R80 -/

theorem test_decode_enc : decode 0b00010000000000000000001111100111#32 = .ok (.enc 999#21) := by decide
theorem test_decode_enc_last : decode 0b00010000000111111111111111111111#32 = .ok (.enc 2097151#21) := by decide
theorem test_decode_dec : decode 0b00100000000000000000000000000000#32 = .ok .dec := by decide
theorem test_decode_sInit : decode 0b00110000000000000000000000000000#32 = .ok .sInit := by decide
theorem test_decode_sFinal : decode 0b01000000000000000000000000000000#32 = .ok .sFinal := by decide
theorem test_decode_sSubmit : decode 0b01010000000000000000000000000000#32 = .ok .sSubmit := by decide
theorem test_decode_sAck : decode 0b01100000000000000000000000000000#32 = .ok .sAck := by decide
theorem test_decode_sTmo : decode 0b01110000000000000000000000000000#32 = .ok .sTmo := by decide
theorem test_decode_rInit : decode 0b10000000000000000000000000000000#32 = .ok .rInit := by decide
theorem test_decode_rFinal : decode 0b10010000000000000000000000000000#32 = .ok .rFinal := by decide
theorem test_decode_rFrame : decode 0b10100000000000000000000000000000#32 = .ok .rFrame := by decide

/-- V80: the illegal words of the vectors. -/
theorem test_illegal_op : decodeTableWord 32 0x00000000 = none ∧ decodeTableWord 32 0xB0000000 = none ∧
    decodeTableWord 32 0xF0000000 = none ∧ decodeTableWord 32 0xFFFFFFFF = none := by decide
theorem test_illegal_fields : decodeTableWord 32 0x30000001 = none ∧ decodeTableWord 32 0x2000007F = none ∧
    decodeTableWord 32 0x50200000 = none ∧ decodeTableWord 32 0x10200000 = none ∧
    decodeTableWord 32 0x1FFFFFFF = none := by decide
theorem test_illegal_step : (after vec [⟨0x2000007F#32, []⟩]).statusOutputs = vec.statusOutputs ∧
    (after vec [⟨0x2000007F#32, []⟩]).rsp = 0x50000000#32 := by decide

/-- No two rows of the opcode map can be selected by one word. -/
theorem test_rows_disjoint : opcodeMap.Pairwise fun r s => (r.pattern &&& s.mask &&& r.mask) ≠ (s.pattern &&& r.mask) := by
  decide

theorem test_table_word : decodeTableWord 32 0x10000005 = some (.enc 5#21) ∧ decodeTableWord 32 0x10200000 = none ∧
    decodeTableWord 64 0x100000000 = none := by decide

/-- A word placed for a run is the first operation after reset. -/
theorem test_fetch_first : shown (nextOf vec (step (vec.withFetchWord 32 0x30000000))) =
    ⟨1, 0, 0, 0, 0, 0, 0, 0⟩ := by decide

/-! ### One step of each operation (95_test_vectors.md) -/

/-- V2 and V16. -/
theorem test_enc_v2 : (nextOf vec (exec (.enc 1#21) { vec with din := [0x21] })).dout = v2 := by decide
theorem test_enc_v16 : (nextOf vec (exec (.enc 2097151#21) { vec with din := List.replicate 10 0xFF })).dout =
    [10, 0x7F, 0x7F, 0x7F, 7, 0, 1] ++ List.replicate 10 0xFF := by decide

/-- V20, and V31 (the payload byte of V2 changed). -/
theorem test_dec_v20 : (nextOf vec (exec .dec { vec with din := v2 })).rsp = 0x00000001#32 ∧
    (nextOf vec (exec .dec { vec with din := v2 })).dout = [0x21] := by decide
theorem test_dec_v31 : (nextOf vec (exec .dec { vec with din := v2.set 7 0x20 })).rsp = 0x1C000000#32 := by decide

/-- P1 steps 1 to 3. -/
theorem test_sInit : shown (after vec [⟨0x30000000#32, []⟩]) = ⟨1, 0, 0, 0, 0, 0, 0, 0⟩ ∧
    (after vec [⟨0x30000000#32, []⟩]).events = [.tmrStop] := by decide
theorem test_rInit : shown (after vec [⟨0x80000000#32, []⟩]) = ⟨0, 0, 0, 0, 0, 1, 0, 0⟩ := by decide
theorem test_sSubmit : shown p1 = ⟨1, 0, 2, 2, 1, 1, 0, 0⟩ ∧
    p1.events = [.tmrStart 1, .sSend v1, .sSend v2] := by decide

/-- P1 steps 4, 6 and 7 and P6 step 11. -/
theorem test_rFrame : shown (nextOf p1 (exec .rFrame { p1 with din := v1 })) = ⟨1, 0, 2, 2, 1, 1, 1, 0⟩ ∧
    (nextOf p1 (exec .rFrame { p1 with din := v1 })).events = [.rDeliver (hello.take 10), .rSend v1] := by decide
theorem test_rFrame_out_of_order : (nextOf p1 (exec .rFrame { p1 with din := v2 })).rsp = 0x20000001#32 := by decide
theorem test_sAck_first : shown (nextOf p1 (exec .sAck { p1 with din := v1 })) =
    ⟨1, 1, 2, 2, 1, 1, 0, 0⟩ ∧
    (nextOf p1 (exec .sAck { p1 with din := v1 })).events = [.tmrStart 1] := by decide
theorem test_sAck_cumulative : shown (nextOf p1 (exec .sAck { p1 with din := v2 })) =
    ⟨1, 2, 2, 2, 0, 1, 0, 0⟩ := by decide
theorem test_sFinal : shown (nextOf p1 (exec .sFinal p1)) = ⟨2, 0, 2, 2, 1, 1, 0, 0⟩ := by decide

/-- P2 step 6. -/
theorem test_sTmo : (nextOf p1 (exec .sTmo p1)).events = [.tmrStart 1, .sSend v1, .sSend v2] := by decide

theorem test_rFinal : shown (nextOf p1 (exec .rFinal p1)) = ⟨1, 0, 2, 2, 1, 0, 0, 0⟩ := by decide

/-- V81: `abort` and the mode are checked before `decode`, the word before both. -/
theorem test_priority : (after { vec with block := { vec.block with abort := true } } [⟨0x70000000#32, []⟩]).rsp =
    0x70000000#32 ∧
    (after { vec with block := { vec.block with abort := true } } [⟨0xB0000000#32, []⟩]).rsp = 0x50000000#32 ∧
    (after vec [⟨0x60000000#32, v2.set 7 0x20⟩]).rsp = 0x30000000#32 := by decide

/-- R88 and R89: the text of some lines. -/
theorem test_line_comment : parseLine "; nothing" = .ok .comment := by decide
theorem test_line_alias : parseLine "on_ack OUT[2]" = .ok (.sAck (.sent 2)) := by decide
theorem test_line_enc : parseLine "ENC 0x82, \"abc\"" = .ok (.enc 130#21 [0x61, 0x62, 0x63]) := by decide
theorem test_line_frame : parseLine "R_FRAME enc(5, x\"00 fF\")" = .ok (.rFrame (.enc 5#21 [0x00, 0xFF])) := by decide
theorem test_line_ambiguous : parseLine "init" = .error .unknownMnemonic := by decide

/-! ### Witnesses: states and operands that meet the hypotheses of the statements -/

/-- A small block: frames of 8 bytes (1 payload byte), a window of 1, 4 slots. -/
def small : Config := ⟨8, 1, 7, 4⟩

/-- The small block with a session of either unit just opened. -/
def opened : State := after (State.resetWith small) [⟨0x30000000#32, []⟩, ⟨0x80000000#32, []⟩]

/-- The same after the message "ab": two frames stored, one of them sent. -/
def live : State := after opened [⟨0x50000000#32, [0x61, 0x62]⟩]

/-- The same, closed to submissions. -/
def draining : State := after live [⟨0x40000000#32, []⟩]

/-- The same, the store overrun. -/
def aborted : State := after live [⟨0x50000000#32, [0x61, 0x62, 0x63]⟩]

/-- The frames of "a" and "b", and the first of them corrupted in its payload, its digits and its length. -/
def frameA : Bytes := [1, 0, 0, 0, 0, 9, 7, 0x61]
def frameB : Bytes := [1, 0, 0, 1, 0, 9, 9, 0x62]
def badPayload : Bytes := [1, 0, 0, 0, 0, 9, 7, 0x60]
def badDigit : Bytes := [1, 0, 0x80, 0, 0, 9, 7, 0x61]
def badLength : Bytes := [2, 0, 0, 0, 0, 9, 7, 0x61]

theorem live_is_live : live.statusOutputs = ⟨1, 0, 1, 2, 1, 1, 0, 0⟩ ∧ live.slot 0 = some frameA ∧
    live.slot 1 = some frameB := by decide

theorem opened_inv : opened.Inv where
  legal := by decide
  base_le_next := by decide
  next_le_len := by decide
  len_le_depth := by decide
  window := by decide
  pumped := by decide
  timer := by decide
  stored := fun i hi => absurd hi (by simp [show opened.block.outLen.toNat = 0 by decide])
  canonical := by decide
  inStore := by decide
  cursor := by decide
  fresh := by decide

theorem live_stored : ∀ i, i < 2 → ∃ p : Bytes, 1 ≤ p.length ∧ p.length ≤ live.cfg.MP ∧
    live.slot i = some (encodeFrame live.cfg (BitVec.ofNat 21 i) p)
  | 0, _ => ⟨[0x61], by decide, by decide, by decide⟩
  | 1, _ => ⟨[0x62], by decide, by decide, by decide⟩

/-- The invariant of a state with the store of `live`, from what can be evaluated. -/
theorem inv_like_live {s : State} (hc : s.cfg = live.cfg) (ho : s.block.out = live.block.out)
    (hl : s.block.outLen = live.block.outLen)
    (hn : s.block.base.toNat ≤ s.block.nextSeqNum.toNat ∧
      s.block.nextSeqNum.toNat = min (s.block.base.toNat + live.cfg.W) live.block.outLen.toNat ∧
      (s.block.base.toNat < s.block.nextSeqNum.toNat → s.block.tmrRun = true) ∧
      s.block.expectedSeqNum.toNat ≤ 2 ^ 21 ∧ s.block.sMode ≠ .down) : s.Inv where
  legal := by rw [hc]; decide
  base_le_next := hn.1
  next_le_len := by rw [hn.2.1, hl]; exact Nat.min_le_right _ _
  len_le_depth := by rw [hl, hc]; decide
  window := by rw [hn.2.1, hc]; omega
  pumped := by rw [hl, hc]; exact hn.2.1
  timer := hn.2.2.1
  stored := by
    intro i hi
    rw [hl, show live.block.outLen.toNat = 2 by decide] at hi
    simp only [State.slot, hc, ho]
    exact live_stored i hi
  canonical := by rw [ho]; decide
  inStore := by rw [ho, hc]; decide
  cursor := hn.2.2.2.1
  fresh := fun h => absurd h hn.2.2.2.2

theorem live_inv : live.Inv := inv_like_live rfl rfl rfl (by decide)
theorem draining_inv : draining.Inv := inv_like_live (by decide) (by decide) (by decide) (by decide)

/-- A state with another DIN or other inputs meets the invariant too. -/
theorem inv_din {s : State} (h : s.Inv) (d : Bytes) (l : List Input) : State.Inv { s with din := d, inputs := l } :=
  ⟨h.legal, h.base_le_next, h.next_le_len, h.len_le_depth, h.window, h.pumped, h.timer, h.stored, h.canonical,
    h.inStore, h.cursor, h.fresh⟩

/-- A command presented to the live state. -/
def cmd (w : Word) (d : Bytes) (s : State) : State := { s with inputs := [.command ⟨w, d⟩] }

theorem witness_DecoderFollowsOpcodeMap :
    (⟨"ENC", 0x10000000#32, 0xFFE00000#32⟩ : OpcodeRow) ∈ opcodeMap ∧
    (⟨"ENC", 0x10000000#32, 0xFFE00000#32⟩ : OpcodeRow).selects 0x101FFFFF#32 = true := by decide

/-- One word for each of the four clauses, at the ends of their ranges. -/
theorem witness_IllegalWordAnswersIllegalCmd : (cmd 0#32 [] aborted).cfg.legal = true ∧
    opField 0x00000000#32 = 0x0#4 ∧ 0xB ≤ (opField 0xB0000000#32).toNat ∧ 0xB ≤ (opField 0xF0000000#32).toNat ∧
    zeroField 0x10200000#32 ≠ 0#7 ∧ zeroField 0xA8000000#32 ≠ 0#7 ∧
    (opField 0x20000001#32 ≠ 0x1#4 ∧ seqField 0x20000001#32 ≠ 0#21) ∧
    (opField 0xA0100000#32 ≠ 0x1#4 ∧ seqField 0xA0100000#32 ≠ 0#21) := by decide

theorem witness_StepRunsTheDecodedOperation : (cmd 0x70000000#32 [] live).cfg.legal = true ∧
    (cmd 0x70000000#32 [] live).inputs = [.command ⟨0x70000000#32, []⟩] ∧ decode 0x70000000#32 = .ok .sTmo := by decide

theorem witness_IdleBlockKeepsItsState : live.cfg.legal = true ∧ live.inputs = [] := by decide

theorem witness_ResetClearsTheRegistersAndAloneClearsAbort :
    ({ aborted with inputs := [.reset small] } : State).cfg.legal = true ∧ small.legal = true ∧
    isNext (step { aborted with inputs := [.reset small] }) = true ∧
    isNext (step (cmd 0x80000000#32 [] aborted)) = true ∧
    (nextOf live (step (cmd 0x80000000#32 [] aborted))).block.abort = true ∧
    (nextOf live (step (cmd 0x80000000#32 [] (State.resetWith small)))).block.sMode = .down := by decide

theorem witness_ResetCutsAnOperationShort : small.legal = true ∧
    isNext (step { live with inputs := [.command ⟨0x70000000#32, []⟩] }) = true ∧
    (nextOf live (step { live with inputs := [.resetDuring ⟨0x70000000#32, []⟩ 1 small] })).events = [.tmrStart 7] := by
  decide

theorem witness_InvHoldsAtReset : Config.legal ⟨8, 1, 0, 1⟩ = true ∧ Config.legal ⟨262, 2097152, 0, 2097152⟩ = true := by
  decide

theorem witness_EveryStepKeepsInv : State.Inv (cmd 0x60000000#32 frameA live) ∧
    isNext (step (cmd 0x60000000#32 frameA live)) = true := ⟨inv_din live_inv _ _, by decide⟩

theorem witness_EveryCommandHasAResult : State.Inv (cmd 0x60000000#32 frameA live) ∧
    ∀ i, decode 0x60000000#32 = .ok i → i.wellFormed small frameA = true :=
  ⟨inv_din live_inv _ _, fun i h => by cases (show decode 0x60000000#32 = .ok .sAck by decide).symm.trans h; decide⟩

/-- A CORRUPT answer and an ALLOC_FAIL. -/
theorem witness_StatusesArePrecise : isNext (step (cmd 0xA0000000#32 badPayload live)) = true ∧
    (nextOf live (step (cmd 0xA0000000#32 badPayload live))).statusField = 0x1#4 ∧
    isNext (step (cmd 0x50000000#32 [1, 2, 3] live)) = true ∧
    (nextOf live (step (cmd 0x50000000#32 [1, 2, 3] live))).statusField = 0x6#4 := by decide

/-- An answer of each clause: OK and OUT_OF_ORDER with a `seq`, CORRUPT, ENC's and DEC's DOUT, no DOUT. -/
theorem witness_ResponseWordHasTheFormatRsp :
    isNext (exec .rFrame { live with din := frameA }) = true ∧ isNext (exec .rFrame { live with din := frameB }) = true ∧
    decodeFrame small frameB = .ok 1#21 [0x62] ∧
    (nextOf live (exec .rFrame { live with din := frameB })).statusField = 0x2#4 ∧
    (nextOf live (exec .rFrame { live with din := badDigit })).causeOf = 0b10#2 ∧
    isNext (exec (.enc 1#21) { live with din := [0x62] }) = true ∧ isNext (exec .dec { live with din := frameB }) = true ∧
    (nextOf live (exec .dec { live with din := frameB })).statusField = 0x0#4 ∧
    isNext (exec .sTmo live) = true := by decide

theorem witness_AbortedBlockRefusesEveryOperation : aborted.block.abort = true ∧
    Instr.wellFormed aborted.cfg aborted.din .sTmo = true := by decide

theorem witness_NotOpenExactlyWhereTheUnitIsClosed : draining.block.abort = false ∧
    Instr.wellFormed draining.cfg draining.din .sSubmit = true ∧ draining.closedFor .sSubmit ∧
    isNext (exec .sSubmit draining) = true ∧
    (nextOf live (exec .sSubmit draining)).statusField = 0x3#4 :=
  ⟨by decide, by decide, .inr (.inl ⟨rfl, .inr (by decide)⟩), by decide, by decide⟩

theorem witness_AbortIsEnteredOnlyByAllocFail : isNext (step (cmd 0x50000000#32 [1, 2, 3] live)) = true ∧
    live.block.abort = false ∧ (nextOf live (step (cmd 0x50000000#32 [1, 2, 3] live))).block.abort = true := by decide

/-- A payload of exactly MP bytes, and one of MP + 1. -/
theorem witness_EncAnswersTheEncodedFrame : live.block.abort = false ∧
    ({ live with din := [0x61] } : State).din.length = live.cfg.MP := by decide
theorem witness_EncOverlongPayloadAnswersContract : live.block.abort = false ∧
    live.cfg.MP < ({ live with din := [0x61, 0x62] } : State).din.length := by decide

theorem witness_DecAnswersWhatDecodeFinds : live.block.abort = false ∧ frameA.length = live.cfg.C ∧
    badPayload.length = live.cfg.C ∧ decodeFrame live.cfg frameA = .ok 0#21 [0x61] ∧
    decodeFrame live.cfg badPayload = .corrupt .cksum := by decide

theorem witness_FrameOfAnotherLengthIsNoCommand : Instr.sAck.dinKind = .frame ∧
    ({ live with din := zeros 7 } : State).din.length ≠ live.cfg.C ∧
    ({ live with din := zeros 9 } : State).din.length ≠ live.cfg.C := by decide

/-- The three causes, and a frame with two defects: the first is reported. -/
theorem witness_DecodeReportsTheFirstDefect : decodeFrame small badLength = .corrupt .lenRange ∧
    decodeFrame small badDigit = .corrupt .seqDigit ∧ decodeFrame small badPayload = .corrupt .cksum ∧
    decodeFrame small [2, 0x80, 0, 0, 0, 0, 0, 0] = .corrupt .lenRange := by decide

/-- The longest payload of the smallest frame, and the empty one, whose padding starts at offset 7. -/
theorem witness_EncodedFrameHasTheWireLayout : small.legal = true ∧ [0xFF#8].length = small.MP ∧
    ([] : Bytes).length ≤ small.MP ∧ 7 + ([] : Bytes).length ≤ 7 ∧ 7 < small.C := by decide
theorem witness_DecodeOfEncodeReturnsTheOperands : small.legal = true ∧ [0xFF#8].length ≤ small.MP := by decide

/-- The first checksum byte and the last payload byte. -/
theorem witness_SingleByteCorruptionIsDetected : frameA.length = small.C ∧ decodeFrame small frameA = .ok 0#21 [0x61] ∧
    4 < 7 + (byteAt frameA 0).toNat ∧ 7 < 7 + (byteAt frameA 0).toNat ∧ 7 < small.C ∧ 0x01 ≠ byteAt frameA 4 ∧
    0x60 ≠ byteAt frameA 7 := by decide

theorem witness_SwappedPayloadBytesGoUndetected : v1.length = Config.vectors.C ∧
    decodeFrame Config.vectors v1 = .ok 0#21 (hello.take 10) ∧ 0 < (hello.take 10).length ∧
    9 < (hello.take 10).length := by decide

theorem witness_DecodeIgnoresThePadding : v2.length = Config.vectors.C ∧ (v2.set 8 0xFF).length = Config.vectors.C ∧
    v2.take (7 + (byteAt v2 0).toNat) = (v2.set 8 0xFF).take (7 + (byteAt v2 0).toNat) := by decide

theorem witness_AllZeroFrameIsWellFormed : Config.legal ⟨8, 1, 0, 1⟩ = true ∧ Config.legal ⟨262, 1, 0, 1⟩ = true := by decide

theorem witness_SInitCreatesAnEmptyWindow : live.block.abort = false := by decide
theorem witness_SFinalOnlyDrains : live.block.abort = false ∧ live.block.sMode = .opened ∧
    draining.block.abort = false ∧ draining.block.sMode = .drain ∧
    (State.resetWith small).block.abort = false ∧ (State.resetWith small).block.sMode = .down := by decide

/-- The store filled exactly; and one payload more. -/
theorem witness_SubmitStoresTheFramesAndPumps : State.Inv { live with din := [1, 2] } ∧ live.block.abort = false ∧
    live.block.sMode = .opened ∧ live.block.outLen.toNat + segmentCount live.cfg 2 = live.cfg.N_OUT :=
  ⟨inv_din live_inv _ _, by decide, by decide, by decide⟩
theorem witness_SubmitWithoutRoomOnlyAborts : live.block.abort = false ∧ live.block.sMode = .opened ∧
    live.cfg.N_OUT < live.block.outLen.toNat + segmentCount live.cfg [1, 2, 3].length := by decide

theorem witness_SegmentsAreMaximalAndMakeTheMessage : Config.vectors.legal = true ∧
    0 + 1 < segmentCount Config.vectors hello.length ∧ 0 < segmentCount Config.vectors hello.length := by decide
theorem witness_EmptyMessageProducesNothing : State.Inv { live with din := [] } ∧ live.block.abort = false ∧
    live.block.sMode = .opened := ⟨inv_din live_inv _ _, by decide, by decide⟩

/-- In OPEN and in DRAIN. -/
theorem witness_AckMovesBaseThenTimerThenPumps : State.Inv { live with din := frameA } ∧
    State.Inv { draining with din := frameA } ∧ live.block.abort = false ∧ live.block.sMode = .opened ∧
    draining.block.abort = false ∧ draining.block.sMode = .drain ∧ frameA.length = small.C ∧
    decodeFrame small frameA = .ok 0#21 [0x61] :=
  ⟨inv_din live_inv _ _, inv_din draining_inv _ _, by decide, by decide, by decide, by decide, by decide, by decide⟩

theorem witness_CorruptAckChangesNothing : live.block.abort = false ∧ live.block.sMode = .opened ∧
    badPayload.length = live.cfg.C ∧ decodeFrame live.cfg badPayload = .corrupt .cksum := by decide

/-- The window `[1, 2)`: an ack for 0 lies below it, one for 2 above it. -/
def later : State := after live [⟨0x60000000#32, frameA⟩]
theorem later_inv : later.Inv := inv_like_live (by decide) (by decide) (by decide) (by decide)
theorem witness_AckOutsideTheWindowIsClamped : State.Inv { later with din := frameA } ∧ later.block.abort = false ∧
    later.block.sMode = .opened ∧ decodeFrame later.cfg frameA = .ok 0#21 [0x61] ∧
    (0#21).toNat + 1 ≤ later.block.base.toNat ∧ State.Inv { live with din := frameB } ∧
    decodeFrame live.cfg frameB = .ok 1#21 [0x62] ∧ live.block.nextSeqNum.toNat ≤ (1#21).toNat :=
  ⟨inv_din later_inv _ _, by decide, by decide, by decide, by decide, inv_din live_inv _ _, by decide, by decide⟩

theorem witness_TimeoutResendsTheWholeWindow : live.Inv ∧ live.block.abort = false ∧ live.block.sMode = .opened ∧
    draining.Inv ∧ draining.block.abort = false ∧ draining.block.sMode = .drain :=
  ⟨live_inv, by decide, by decide, draining_inv, by decide, by decide⟩
theorem witness_TimeoutOfAnEmptyWindowRestartsTheTimer : opened.block.abort = false ∧ opened.block.sMode = .opened ∧
    opened.block.base = opened.block.nextSeqNum := by decide

theorem witness_EveryFrameSentIsTheStoredFrame : live.Inv ∧ isNext (exec .sTmo live) = true ∧
    Event.sSend frameA ∈ (nextOf live (exec .sTmo live)).events := ⟨live_inv, by decide, by decide⟩

/-- Three steps: a timeout, an ack, a submission. -/
def session : State := { live with inputs := [.command ⟨0x70000000#32, []⟩, .command ⟨0x60000000#32, frameA⟩,
  .command ⟨0x50000000#32, [0x63]⟩] }
theorem witness_SessionNeverRewritesAFrame : session.Inv ∧ (∀ x ∈ session.inputs.take 3, x.endsSession = false) ∧
    ∃ t, Sys2Proof.core.run 3 session = .next t :=
  ⟨inv_din live_inv _ _, by decide, _, eq_next_of_isNext live (by decide)⟩

theorem witness_TmrRunRecordsTheLastTimerEvent : isNext (exec .sTmo opened) = true := by decide
theorem witness_EventsComeFromTheOperationsOfTheTable : isNext (exec .sTmo live) = true ∧
    Event.sSend frameA ∈ (nextOf live (exec .sTmo live)).events := by decide
theorem witness_ModesChangeOnlyByInitAndFinal : isNext (exec .sFinal live) = true ∧ isNext (exec .rInit vec) = true := by
  decide

theorem witness_RInitOpensTheReceiver : live.block.abort = false := by decide
theorem witness_RFinalClosesTheReceiver : live.block.abort = false ∧ live.block.rOpen = true ∧
    (State.resetWith small).block.abort = false ∧ (State.resetWith small).block.rOpen = false := by decide
theorem witness_InOrderFrameIsDeliveredAndEchoed : live.block.abort = false ∧ live.block.rOpen = true ∧
    frameA.length = live.cfg.C ∧ decodeFrame live.cfg frameA = .ok 0#21 [0x61] ∧
    (0#21).toNat = live.block.expectedSeqNum.toNat := by decide
theorem witness_OtherFramesAreDroppedSilently : live.block.abort = false ∧ live.block.rOpen = true ∧
    badPayload.length = live.cfg.C ∧ decodeFrame live.cfg badPayload = .corrupt .cksum ∧ frameB.length = live.cfg.C ∧
    decodeFrame live.cfg frameB = .ok 1#21 [0x62] ∧ (1#21).toNat ≠ live.block.expectedSeqNum.toNat := by decide
theorem witness_CursorRisesByOneOnAcceptance : isNext (exec .rFrame { live with din := frameA }) = true ∧
    (nextOf live (exec .rFrame { live with din := frameA })).statusField = 0x0#4 ∧
    Event.rDeliver [0x61] ∈ (nextOf live (exec .rFrame { live with din := frameA })).events ∧
    isNext (exec .sTmo live) = true := by decide

/-- A cursor that has passed the last sequence number. -/
def exhausted : State := { live with din := frameA, block := { live.block with expectedSeqNum := 2097152#22 } }
theorem witness_ExhaustedCursorAcceptsNothing : exhausted.block.abort = false ∧ exhausted.block.rOpen = true ∧
    exhausted.din.length = exhausted.cfg.C ∧ exhausted.block.expectedSeqNum.toNat = 2 ^ 21 := by decide

theorem witness_UnitsDoNotInterfere : Instr.sTmo.hwUnit ≠ .rcv ∧ Instr.rFrame.hwUnit ≠ .snd ∧
    (Instr.dec.hwUnit ≠ .rcv ∧ Instr.dec.hwUnit ≠ .snd) := by decide

/-- A closed system of two small blocks, its session opened, and the message "ab" to submit. -/
def sys0 : System := System.start small [[0x61, 0x62]]
def orElse (d : System) : Option System → System
  | some y => y
  | none => d
def sysOpen : System := orElse sys0 (sys0.run [.initSender, .initReceiver])

/-- A run with a duplicated frame, a detectably corrupted one, a timeout, an ack and a lost frame. -/
def trip : List Action := [.submit, .dataDuplicated 0, .dataCorrupted 0 badPayload, .dataArrives 0, .expire,
  .dataArrives 0, .ackArrives 0, .dataDropped 0]

theorem witness_TimerAgentFollowsTmrRun : sysOpen.armed = sysOpen.snd.block.tmrRun ∧
    (sysOpen.act .submit).isSome = true ∧
    ((orElse sysOpen (sysOpen.act .submit)).act .expire).isSome = true ∧
    (orElse sysOpen (sysOpen.act .submit)).snd.block.abort = false ∧
    (orElse sysOpen (sysOpen.act .submit)).snd.block.sMode ≠ .down := by decide

theorem witness_ResentWindowIsNeverAcknowledgedAgain : live.Inv ∧ isNext (exec .sTmo live) = true ∧
    (nextOf live (exec .rFrame { live with din := frameA })).cfg = live.cfg ∧
    (nextOf live (exec .rFrame { live with din := frameA })).block.abort = false ∧
    (nextOf live (exec .rFrame { live with din := frameA })).block.rOpen = true ∧
    live.block.nextSeqNum.toNat ≤ (nextOf live (exec .rFrame { live with din := frameA })).block.expectedSeqNum.toNat :=
  ⟨live_inv, by decide, by decide, by decide, by decide, by decide⟩

theorem witness_DeliveryIsAPrefixOfTheSubmission : small.legal = true ∧
    (sys0.run [.initSender, .initReceiver]).isSome = true ∧ (∀ a ∈ trip, a.detectable small = true) ∧
    (sysOpen.run trip).isSome = true ∧ (orElse sys0 (sysOpen.run trip)).delivered = [[0x61]] := by decide

theorem witness_BaseNeverPassesTheReceiverCursor : small.legal = true ∧
    (sys0.run [.initSender, .initReceiver]).isSome = true ∧ (∀ a ∈ trip, a.detectable small = true) ∧
    (sysOpen.run trip).isSome = true ∧ (orElse sys0 (sysOpen.run trip)).snd.block.base = 1#22 := by decide

/-- A literal frame, one sent, one acknowledged, one encoded; and in a trace the latest of two frames of one number. -/
theorem witness_ProgramLinesAreCommands : small.legal = true ∧ (∀ f, Event.sSend f ∈ live.events → f.length = small.C) ∧
    (Line.sAck (.sent 0)).command small live.events = .ok (some ⟨0x60000000#32, frameA⟩) ∧
    (FrameOperand.literal frameA).resolve small [] = .ok frameA ∧
    (FrameOperand.enc 0#21 [0x61]).resolve small [] = .ok frameA ∧
    decodeFrame small frameA = .ok 0#21 [0x61] ∧
    (∀ p, decodeFrame small frameB ≠ .ok 0#21 p) ∧
    (FrameOperand.sent 0).resolve small ([.sSend frameB] ++ .sSend frameA :: [.rSend frameA, .sSend frameB]) = .ok frameA ∧
    (FrameOperand.acked 0).resolve small ([] ++ .rSend frameA :: [.sSend frameA, .rSend frameB]) = .ok frameA :=
  ⟨by decide, fun f hf => by
    have h : live.events = [.tmrStart 7, .sSend frameA] := by decide
    rw [h] at hf
    simp only [List.mem_cons, reduceCtorEq, Event.sSend.injEq, List.not_mem_nil, or_false, false_or] at hf
    rw [hf]; decide,
   by decide, by decide, by decide, by decide,
   fun p h => by
    rw [show decodeFrame small frameB = .ok 1#21 [0x62] by decide] at h
    exact absurd (Decoded.ok.inj h).1 (by decide),
   by decide, by decide⟩

/-- The session in flight: the frame of "a" sent twice over, one copy delivered and its ack under way. -/
def sysFlight : System := orElse sys0 (sysOpen.run [.submit, .dataDuplicated 0, .dataArrives 0])

theorem sysFlight_receiver_inv : sysFlight.rcv.Inv where
  legal := by decide
  base_le_next := by decide
  next_le_len := by decide
  len_le_depth := by decide
  window := by decide
  pumped := by decide
  timer := by decide
  stored := fun i hi => absurd hi (by simp [show sysFlight.rcv.block.outLen.toNat = 0 by decide])
  canonical := by decide
  inStore := by decide
  cursor := by decide
  fresh := by decide

theorem sysFlight_inv : sysFlight.Inv [[0x61, 0x62]] where
  sender := inv_like_live (by decide) (by decide) (by decide) (by decide)
  receiver := sysFlight_receiver_inv
  sameConstants := by decide
  base_le_cursor := by decide
  cursor_le_next := by decide
  dataInFlight := by
    intro f hf
    rw [show sysFlight.dataLink = [frameA] by decide, List.mem_singleton] at hf
    subst hf
    refine ⟨by decide, fun q p h => ?_⟩
    rw [show decodeFrame sysFlight.snd.cfg frameA = .ok 0#21 [0x61] by decide] at h
    rw [← (Decoded.ok.inj h).1]
    decide
  acksInFlight := by
    intro f hf
    rw [show sysFlight.ackLink = [frameA] by decide, List.mem_singleton] at hf
    subst hf
    refine ⟨by decide, fun q p h => ?_⟩
    rw [show decodeFrame sysFlight.snd.cfg frameA = .ok 0#21 [0x61] by decide] at h
    rw [← (Decoded.ok.inj h).1]
    decide
  deliveredInOrder := by decide
  storedIsSubmitted := by decide
  restIsToCome := by decide

theorem witness_DetectableActionsKeepTheSystemInv : sysFlight.Inv [[0x61, 0x62]] ∧
    (Action.ackArrives 0).detectable sysFlight.snd.cfg = true ∧ (sysFlight.act (.ackArrives 0)).isSome = true ∧
    (Action.dataCorrupted 0 badPayload).detectable sysFlight.snd.cfg = true ∧
    (sysFlight.act (.dataCorrupted 0 badPayload)).isSome = true :=
  ⟨sysFlight_inv, by decide, by decide, by decide, by decide⟩

theorem witness_SystemInvHoldsAfterTheInits : small.legal = true := by decide

/-- The three codes of `s_mode` and every output of one state at a value of its own (R26, R31). -/
theorem test_status_outputs : (State.resetWith small).statusOutputs.st_s_mode = 0#2 ∧
    draining.statusOutputs.st_s_mode = 2#2 ∧
    { live with block := { live.block with base := 3#22, expectedSeqNum := 9#22, rOpen := false } }.statusOutputs =
      ⟨1#2, 3#22, 1#22, 2#22, 1#1, 0#1, 9#22, 0#1⟩ := by decide

/-- R88's spaces between bytes as log entry 15 reads them. -/
theorem test_line_hex_spaces : parseLine "S_SUBMIT x\"48  49\"" = .error .badOperand ∧
    parseLine "S_SUBMIT x\"48 49 \"" = .ok (.sSubmit [0x48, 0x49]) := by decide

end Sys2Proof.Tests
end

section
/-! PROOFS. Noninterference of the three units (00_scope.md R4): the parts that every operation shares see only the
constants, DIN and `abort`, so what is left for each operation is its own body. -/

namespace Sys2Proof.Machine

/-! ### Changes of registers that an operation does not see -/

/-- The operation neither reads nor writes what `g` changes: changing it first and running afterwards is running first
and changing it afterwards. -/
def Ignores (op : State → Outcome) (g : State → State) : Prop := ∀ s, op (g s) = mapNext g (op s)

/-- The change stays clear of what the shared parts of every operation look at or write (R200): the constants, DIN,
`abort` and the ports of the answer. -/
structure SparesSharedParts (g : State → State) : Prop where
  cfg : ∀ s, (g s).cfg = s.cfg
  din : ∀ s, (g s).din = s.din
  abort : ∀ s, (g s).block.abort = s.block.abort
  clearEvents : ∀ s, (g s).clearEvents = g s.clearEvents
  respond : ∀ s rsp dout, (g s).respond rsp dout = g (s.respond rsp dout)

theorem State.withReceiver_sparesSharedParts (r : Bool) (e : Counter) : SparesSharedParts (·.withReceiver r e) where
  cfg _ := rfl
  din _ := rfl
  abort _ := rfl
  clearEvents _ := rfl
  respond _ _ _ := rfl

theorem State.withSender_sparesSharedParts (b : Block) : SparesSharedParts (·.withSender b) where
  cfg _ := rfl
  din _ := rfl
  abort _ := rfl
  clearEvents _ := rfl
  respond _ _ _ := rfl

/-! ### What the SND unit reads is not the receiver's -/

section Fields

variable (s : State) (r : Bool) (e : Counter)

@[simp] theorem State.withReceiver_cfg : (s.withReceiver r e).cfg = s.cfg := rfl
@[simp] theorem State.withReceiver_din : (s.withReceiver r e).din = s.din := rfl
@[simp] theorem State.withReceiver_base : (s.withReceiver r e).block.base = s.block.base := rfl
@[simp] theorem State.withReceiver_nextSeqNum : (s.withReceiver r e).block.nextSeqNum = s.block.nextSeqNum := rfl
@[simp] theorem State.withReceiver_outLen : (s.withReceiver r e).block.outLen = s.block.outLen := rfl

end Fields

/-! ### The shared parts of an operation -/

section SharedParts

variable {g : State → State}

theorem SparesSharedParts.raise_comm (hg : SparesSharedParts g) (s : State) (st : Status) (c : Option Cause)
    (q : SeqNum) : (g s).raise st c q = mapNext g (s.raise st c q) :=
  congrArg Host.Outcome.next (hg.respond s _ _)

theorem SparesSharedParts.finish_comm (hg : SparesSharedParts g) (s : State) (q : SeqNum) (dout : Bytes) :
    (g s).finish q dout = mapNext g (s.finish q dout) :=
  congrArg Host.Outcome.next (hg.respond s _ _)

/-- The checks of R200 see the change only through the mode of the unit addressed. -/
theorem SparesSharedParts.ignores_serve (hg : SparesSharedParts g) {i : Instr} {body : State → Outcome}
    (hserves : ∀ s, (g s).serves i = s.serves i) (hbody : Ignores body g) : Ignores (·.serve i body) g := by
  intro s
  simp only [State.serve, hg.abort, hserves, hg.clearEvents]
  split
  · exact hg.raise_comm _ _ _ _
  · split
    · exact hbody _
    · exact hg.raise_comm _ _ _ _

/-- Taking DIN as a frame (R79) does not see the change. -/
theorem SparesSharedParts.ignores_withFrame (hg : SparesSharedParts g) {body : Bytes → State → Outcome}
    (hbody : ∀ f, Ignores (body f) g) : Ignores (fun s => s.withFrame fun f => body f s) g := by
  intro s
  simp only [State.withFrame, hg.cfg, hg.din]
  split
  · exact hbody _ _
  · rfl

/-- A store access that does not see the change, followed by a rest that does not, does not see it. -/
theorem orFault_map {r r' : Except Fault State} {body : State → Outcome} (haccess : r' = r.map g)
    (hbody : Ignores body g) : orFault r' body = mapNext g (orFault r body) := by
  subst haccess
  cases r with
  | error _ => rfl
  | ok s => exact hbody s

/-! ### The CODEC: its operations see no register but `abort` (R106, R113) -/

theorem execEnc_ignores (hg : SparesSharedParts g) (q : SeqNum) : Ignores (execEnc q) g := by
  refine hg.ignores_serve (fun _ => rfl) fun s => ?_
  simp only [hg.cfg, hg.din]
  split
  · exact hg.raise_comm _ _ _ _
  · exact hg.finish_comm _ _ _

theorem execDec_ignores (hg : SparesSharedParts g) : Ignores execDec g := by
  refine hg.ignores_withFrame fun f => hg.ignores_serve (fun _ => rfl) fun s => ?_
  simp only [hg.cfg]
  split
  · exact hg.finish_comm _ _ _
  · exact hg.raise_comm _ _ _ _

end SharedParts

/-! ### The RCV unit and the sender's registers and store (R51, R170) -/

section Receiver

variable (b : Block)

theorem State.serves_withSender {i : Instr} (h : i.hwUnit ≠ .snd) (s : State) :
    (s.withSender b).serves i = s.serves i := by
  cases i with
  | enc _ | dec | rInit | rFinal | rFrame => rfl
  | sInit | sFinal | sSubmit | sAck | sTmo => exact absurd rfl h

theorem serve_ignores_sender {i : Instr} {body : State → Outcome} (h : i.hwUnit ≠ .snd)
    (hbody : Ignores body (·.withSender b)) : Ignores (·.serve i body) (·.withSender b) :=
  (State.withSender_sparesSharedParts b).ignores_serve (State.serves_withSender b h) hbody

theorem execRInit_ignores_sender : Ignores execRInit (·.withSender b) :=
  serve_ignores_sender b (by decide) fun _ => rfl

theorem execRFinal_ignores_sender : Ignores execRFinal (·.withSender b) :=
  serve_ignores_sender b (by decide) fun _ => rfl

theorem execRFrame_ignores_sender : Ignores execRFrame (·.withSender b) := by
  have hg := State.withSender_sparesSharedParts b
  refine hg.ignores_withFrame fun f => serve_ignores_sender b (by decide) fun s => ?_
  simp only [hg.cfg]
  cases decodeFrame s.cfg f with
  | corrupt c => rfl
  | ok q p =>
    simp only [apply_ite (mapNext _)]
    rfl

end Receiver

/-! ### The SND unit and the receiver's registers (R130) -/

section Sender

variable (r : Bool) (e : Counter)

theorem State.serves_withReceiver {i : Instr} (h : i.hwUnit ≠ .rcv) (s : State) :
    (s.withReceiver r e).serves i = s.serves i := by
  cases i with
  | rInit | rFinal | rFrame => exact absurd rfl h
  | enc _ | dec | sInit | sFinal | sSubmit | sAck | sTmo => rfl

theorem serve_ignores_receiver {i : Instr} {body : State → Outcome} (h : i.hwUnit ≠ .rcv)
    (hbody : Ignores body (·.withReceiver r e)) : Ignores (·.serve i body) (·.withReceiver r e) :=
  (State.withReceiver_sparesSharedParts r e).ignores_serve (State.serves_withReceiver r e h) hbody

theorem State.outRead_withReceiver (s : State) (i : Nat) : (s.withReceiver r e).outRead i = s.outRead i :=
  State.outRead_congr rfl rfl rfl i

theorem State.outWrite_withReceiver (s : State) (i : Nat) (f : Bytes) :
    (s.withReceiver r e).outWrite i f = (s.outWrite i f).map (·.withReceiver r e) := by
  rw [State.outWrite, State.outWrite, apply_ite (Except.map _)]
  rfl

theorem State.pumpOne_withReceiver (s : State) (starts : Bool) (f : Bytes) :
    (s.withReceiver r e).pumpOne starts f = (s.pumpOne starts f).withReceiver r e := by
  cases starts <;> rfl

theorem State.ackTimer_withReceiver (s : State) : (s.withReceiver r e).ackTimer = s.ackTimer.withReceiver r e := by
  rw [State.ackTimer, State.ackTimer, apply_ite (fun t : State => t.withReceiver r e)]
  rfl

theorem storeFrames_withReceiver (ps : List Bytes) (i : Nat) (s : State) :
    storeFrames ps i (s.withReceiver r e) = (storeFrames ps i s).map (·.withReceiver r e) := by
  induction ps generalizing i s with
  | nil => rfl
  | cons p ps ih =>
    simp only [storeFrames, State.withReceiver_cfg, State.outWrite_withReceiver]
    cases s.outWrite i (encodeFrame s.cfg (BitVec.ofNat 21 i) p) with
    | error _ => rfl
    | ok s' => exact ih (i + 1) s'

theorem sendSlots_withReceiver (n i : Nat) (s : State) :
    sendSlots n i (s.withReceiver r e) = (sendSlots n i s).map (·.withReceiver r e) := by
  induction n generalizing i s with
  | zero => rfl
  | succ n ih =>
    simp only [sendSlots, State.outRead_withReceiver]
    cases s.outRead i with
    | error _ => rfl
    | ok f => exact ih (i + 1) (s.emit (.sSend f))

theorem pumpLoop_withReceiver (fuel : Nat) (wasEmpty first : Bool) (s : State) :
    pumpLoop fuel wasEmpty first (s.withReceiver r e) =
      (pumpLoop fuel wasEmpty first s).map (·.withReceiver r e) := by
  induction fuel generalizing first s with
  | zero => rfl
  | succ fuel ih =>
    simp only [pumpLoop, State.withReceiver_cfg, State.withReceiver_base, State.withReceiver_nextSeqNum,
      State.withReceiver_outLen, State.outRead_withReceiver, State.pumpOne_withReceiver]
    split
    · cases s.outRead s.block.nextSeqNum.toNat with
      | error _ => rfl
      | ok f => exact ih false (s.pumpOne (wasEmpty && first) f)
    · rfl

theorem pump_withReceiver (s : State) : pump (s.withReceiver r e) = (pump s).map (·.withReceiver r e) :=
  pumpLoop_withReceiver r e _ _ _ s

theorem execSInit_ignores_receiver : Ignores execSInit (·.withReceiver r e) :=
  serve_ignores_receiver r e (by decide) fun _ => rfl

theorem execSFinal_ignores_receiver : Ignores execSFinal (·.withReceiver r e) :=
  serve_ignores_receiver r e (by decide) fun _ => rfl

theorem execSSubmit_ignores_receiver : Ignores execSSubmit (·.withReceiver r e) := by
  refine serve_ignores_receiver r e (by decide) fun s => ?_
  simp only [State.withReceiver_cfg, State.withReceiver_din, State.withReceiver_outLen, storeFrames_withReceiver]
  split
  · rfl
  · exact orFault_map rfl fun s1 => orFault_map (pump_withReceiver r e (s1.setOutLen _)) fun _ => rfl

theorem execSAck_ignores_receiver : Ignores execSAck (·.withReceiver r e) := by
  refine (State.withReceiver_sparesSharedParts r e).ignores_withFrame fun f =>
    serve_ignores_receiver r e (by decide) fun s => ?_
  simp only [State.withReceiver_cfg, State.withReceiver_base, State.withReceiver_nextSeqNum]
  cases decodeFrame s.cfg f with
  | corrupt c => rfl
  | ok q p =>
    have htimer := State.ackTimer_withReceiver r e (s.setBase (ackedBase s.block.base s.block.nextSeqNum q))
    exact orFault_map ((congrArg pump htimer).trans (pump_withReceiver r e _)) fun _ => rfl

theorem execSTmo_ignores_receiver : Ignores execSTmo (·.withReceiver r e) :=
  serve_ignores_receiver r e (by decide) fun s =>
    orFault_map (sendSlots_withReceiver r e _ _ s.startTimer) fun _ => rfl

end Sender

/-! ### The dispatcher (R4) -/

/-- No operation of CODEC or SND sees the receiver's registers. -/
theorem exec_ignores_receiver (r : Bool) (e : Counter) {i : Instr} (h : i.hwUnit ≠ .rcv) :
    Ignores (exec i) (·.withReceiver r e) := by
  cases i with
  | enc q => exact execEnc_ignores (State.withReceiver_sparesSharedParts r e) q
  | dec => exact execDec_ignores (State.withReceiver_sparesSharedParts r e)
  | sInit => exact execSInit_ignores_receiver r e
  | sFinal => exact execSFinal_ignores_receiver r e
  | sSubmit => exact execSSubmit_ignores_receiver r e
  | sAck => exact execSAck_ignores_receiver r e
  | sTmo => exact execSTmo_ignores_receiver r e
  | rInit | rFinal | rFrame => exact absurd rfl h

/-- No operation of CODEC or RCV sees the sender's registers or the store. -/
theorem exec_ignores_sender (b : Block) {i : Instr} (h : i.hwUnit ≠ .snd) : Ignores (exec i) (·.withSender b) := by
  cases i with
  | enc q => exact execEnc_ignores (State.withSender_sparesSharedParts b) q
  | dec => exact execDec_ignores (State.withSender_sparesSharedParts b)
  | rInit => exact execRInit_ignores_sender b
  | rFinal => exact execRFinal_ignores_sender b
  | rFrame => exact execRFrame_ignores_sender b
  | sInit | sFinal | sSubmit | sAck | sTmo => exact absurd rfl h

/-- Settles O52: each operation ignores the change, by the dispatcher's two lemmas. -/
theorem unitsDoNotInterfere : Obligations.UnitsDoNotInterfere := by
  intro i s
  exact ⟨fun h r e => exec_ignores_receiver r e h s, fun h b => exec_ignores_sender b h s⟩

end Sys2Proof.Machine
end

section
/-! PROOFS. The block's state (10_state.md R31, R40, R41) and its invariant (R34 to R38): the store as an invariant of
its own, the moves that an operation makes inside a session, and that every step keeps the invariant. -/

namespace Sys2Proof.Machine

/-! ### The store part of the invariant (R24, R38, R52) -/

/-- What the invariant says of the store: its clauses that no counter but `out_len` is part of. -/
structure State.StoreOk (s : State) : Prop where
  legal : s.cfg.legal = true
  len_le_depth : s.block.outLen.toNat ≤ s.cfg.N_OUT
  stored : ∀ i, i < s.block.outLen.toNat →
    ∃ p : Bytes, 1 ≤ p.length ∧ p.length ≤ s.cfg.MP ∧ s.slot i = some (encodeFrame s.cfg (BitVec.ofNat 21 i) p)
  canonical : Memory.wf s.block.out
  inStore : ∀ x ∈ s.block.out, x.1 < s.cfg.N_OUT * s.cfg.C

theorem State.Inv.storeOk {s : State} (h : s.Inv) : s.StoreOk :=
  ⟨h.legal, h.len_le_depth, h.stored, h.canonical, h.inStore⟩

/-- The invariant from its store part: R36 alone bounds `next_seq_num` as R34 and R35 ask. -/
theorem State.StoreOk.inv {s : State} (h : s.StoreOk) (hbase : s.block.base.toNat ≤ s.block.nextSeqNum.toNat)
    (hpumped : s.block.nextSeqNum.toNat = min (s.block.base.toNat + s.cfg.W) s.block.outLen.toNat)
    (htimer : s.block.base.toNat < s.block.nextSeqNum.toNat → s.block.tmrRun = true)
    (hcursor : s.block.expectedSeqNum.toNat ≤ 2 ^ 21)
    (hfresh : s.block.sMode = .down → s.block.outLen = 0#22 ∧ s.block.tmrRun = false ∧ s.block.abort = false) :
    s.Inv where
  legal := h.legal
  base_le_next := hbase
  next_le_len := by omega
  len_le_depth := h.len_le_depth
  window := by omega
  pumped := hpumped
  timer := htimer
  stored := h.stored
  canonical := h.canonical
  inStore := h.inStore
  cursor := hcursor
  fresh := hfresh

theorem State.slot_congr {s t : State} (hc : t.cfg = s.cfg) (ho : t.block.out = s.block.out) (i : Nat) :
    t.slot i = s.slot i := by
  rw [State.slot, State.slot, hc, ho]

/-- The store part depends on the constants, the store and `out_len` only. -/
theorem State.StoreOk.congr {s t : State} (h : s.StoreOk) (hc : t.cfg = s.cfg) (ho : t.block.out = s.block.out)
    (hl : t.block.outLen = s.block.outLen) : t.StoreOk where
  legal := hc ▸ h.legal
  len_le_depth := by rw [hc, hl]; exact h.len_le_depth
  stored i hi := by rw [State.slot_congr hc ho, hc]; exact h.stored i (hl ▸ hi)
  canonical := ho ▸ h.canonical
  inStore := by rw [hc, ho]; exact h.inStore

/-- An empty session stores nothing, so what the bytes of the store are does not matter (R51, R132). -/
theorem State.StoreOk.emptied {s t : State} (h : s.StoreOk) (hc : t.cfg = s.cfg) (ho : t.block.out = s.block.out)
    (hl : t.block.outLen = 0#22) : t.StoreOk where
  legal := hc ▸ h.legal
  len_le_depth := by simp [hl]
  stored i hi := by simp [hl] at hi
  canonical := ho ▸ h.canonical
  inStore := by rw [hc, ho]; exact h.inStore

/-- Every slot below `out_len` can be read (R56, R59). -/
theorem State.StoreOk.readable {s : State} (h : s.StoreOk) {i n : Nat} (hn : i + n ≤ s.block.outLen.toNat) :
    s.readable i n := by
  intro j _ hj
  obtain ⟨p, _, _, hslot⟩ := h.stored j (by omega)
  rw [State.frameOf_of_slot hslot]
  exact (s.outRead_ok_iff j _).2 ⟨by have := h.len_le_depth; omega, by omega, hslot⟩

/-! ### After reset (R41, R221, R222) -/

theorem State.resetWith_storeOk {cfg : Config} (h : cfg.legal = true) : (State.resetWith cfg).StoreOk where
  legal := h
  len_le_depth := Nat.zero_le _
  stored i hi := absurd hi (Nat.not_lt_zero i)
  canonical := reset_wf cfg
  inStore _ hx := absurd hx List.not_mem_nil

theorem State.resetWith_inv {cfg : Config} (h : cfg.legal = true) : (State.resetWith cfg).Inv :=
  (State.resetWith_storeOk h).inv (Nat.le_refl _) (Nat.min_zero _).symm (fun hlt => absurd hlt (Nat.lt_irrefl _))
    (Nat.zero_le _) fun _ => ⟨rfl, rfl, rfl⟩

/-- Settles O10: `State.reset` is the reset with the constants of the vectors, which are legal. -/
theorem invHoldsAtReset : Obligations.InvHoldsAtReset :=
  ⟨State.resetWith_inv (by decide), fun _ h => State.resetWith_inv h⟩

/-- Settles O8, by evaluating the reset state: its store lists no byte. -/
theorem resetStateOfTheBlock : Obligations.ResetStateOfTheBlock :=
  fun _ => ⟨rfl, rfl, fun _ => rfl⟩

/-! ### The status outputs (R26, R31) -/

theorem bit_eq_one_iff (b : Bool) : BitVec.ofBool b = 1#1 ↔ b = true := by
  cases b <;> decide

/-- Settles O58, one output at a time. -/
theorem statusOutputsShowTheRegisters : Obligations.StatusOutputsShowTheRegisters := by
  intro s
  have hmode : s.statusOutputs.st_s_mode = s.block.sMode.code := rfl
  refine ⟨?_, rfl, rfl, rfl, bit_eq_one_iff _, bit_eq_one_iff _, rfl, bit_eq_one_iff _⟩
  rw [hmode]
  cases s.block.sMode <;> rfl

/-! ### Pumping (R36, R37, R140, R141) -/

/-- What holds when an operation of a running session has yet to pump: the invariant short of R36. -/
structure State.ReadyToPump (s : State) : Prop extends s.StoreOk where
  base_le_next : s.block.base.toNat ≤ s.block.nextSeqNum.toNat
  next_le_len : s.block.nextSeqNum.toNat ≤ s.block.outLen.toNat
  next_le_window : s.block.nextSeqNum.toNat ≤ s.block.base.toNat + s.cfg.W
  timer : s.block.base.toNat < s.block.nextSeqNum.toNat → s.block.tmrRun = true
  cursor : s.block.expectedSeqNum.toNat ≤ 2 ^ 21
  running : s.block.sMode ≠ .down

/-- Pump raises `next_seq_num` to the bound of R36. -/
theorem State.ReadyToPump.pumpResult_next {s : State} (h : s.ReadyToPump) :
    s.pumpResult.block.nextSeqNum.toNat = min (s.block.base.toNat + s.cfg.W) s.block.outLen.toNat := by
  have hlen := s.block.outLen.isLt
  have hnext := h.next_le_len
  have hwindow := h.next_le_window
  simp only [State.pumpResult, State.admissible, BitVec.toNat_ofNat]
  omega

/-- Pump has started the timer if it has put a frame into an empty window (R141). -/
theorem State.ReadyToPump.pumpResult_timer {s : State} (h : s.ReadyToPump)
    (hlt : s.block.base.toNat < s.pumpResult.block.nextSeqNum.toNat) : s.pumpResult.block.tmrRun = true := by
  show (s.block.tmrRun || s.startsWindow) = true
  rcases Nat.lt_or_eq_of_le h.base_le_next with hwindow | hempty
  · rw [h.timer hwindow, Bool.true_or]
  · have hsome : 0 < s.admissible := by
      rw [h.pumpResult_next] at hlt
      rw [State.admissible]
      omega
    simp [State.startsWindow, BitVec.eq_of_toNat_eq hempty, hsome]

theorem State.ReadyToPump.pumpResult_inv {s : State} (h : s.ReadyToPump) : s.pumpResult.Inv := by
  have hnext := h.pumpResult_next
  have hstore : s.pumpResult.StoreOk := h.toStoreOk.congr rfl rfl rfl
  refine hstore.inv ?_ hnext h.pumpResult_timer h.cursor fun hdown => absurd hdown h.running
  have hbase : s.block.base.toNat ≤ s.block.outLen.toNat := Nat.le_trans h.base_le_next h.next_le_len
  rw [hnext]
  exact Nat.le_min.2 ⟨Nat.le_add_right _ _, hbase⟩

/-- Pump never moves `next_seq_num` back. -/
theorem State.ReadyToPump.next_le_pumpResult {s : State} (h : s.ReadyToPump) :
    s.block.nextSeqNum.toNat ≤ s.pumpResult.block.nextSeqNum.toNat := by
  rw [h.pumpResult_next]
  exact Nat.le_min.2 ⟨h.next_le_window, h.next_le_len⟩

/-- Pump comes only to slots that can be read (R56). -/
theorem State.ReadyToPump.pump_ok {s : State} (h : s.ReadyToPump) : pump s = .ok s.pumpResult := by
  have hnext := h.next_le_len
  have hturns := s.admissible_le
  exact Machine.pump_ok (h.readable (by omega))

theorem State.Inv.next_le_window {s : State} (h : s.Inv) : s.block.nextSeqNum.toNat ≤ s.block.base.toNat + s.cfg.W := by
  have := h.pumped
  omega

/-! ### The state from which S_SUBMIT pumps (R134) -/

/-- The store has room for the message in DIN (R134, R196). -/
def State.hasRoom (s : State) : Prop :=
  s.block.outLen.toNat + segmentCount s.cfg s.din.length ≤ s.cfg.N_OUT

theorem State.StoreOk.submitted_outLen {s : State} (h : s.StoreOk) (hroom : s.hasRoom) :
    s.submitted.block.outLen.toNat = s.block.outLen.toNat + segmentCount s.cfg s.din.length := by
  have hlegal := (Config.legal_iff _).1 h.legal
  simp only [State.hasRoom] at hroom
  simp only [State.submitted, BitVec.toNat_ofNat]
  omega

/-- A submission writes no slot below `out_len` (R58). -/
theorem State.StoreOk.submitted_slot_old {s : State} (h : s.StoreOk) {k : Nat} (hk : k < s.block.outLen.toNat) :
    s.submitted.slot k = s.slot k := by
  have hlegal := (Config.legal_iff _).1 h.legal
  exact memRead_storedMem_other (by omega) _ _ _ (fun _ hp => segments_le hp) (.inl hk)

/-- Slot `out_len + j` takes the frame of payload j (R134). -/
theorem State.StoreOk.submitted_slot_new {s : State} (h : s.StoreOk) {j : Nat}
    (hj : j < segmentCount s.cfg s.din.length) : s.submitted.slot (s.block.outLen.toNat + j) =
      some (encodeFrame s.cfg (BitVec.ofNat 21 (s.block.outLen.toNat + j)) (segment s.cfg s.din j)) := by
  have hlegal := (Config.legal_iff _).1 h.legal
  exact memRead_storedMem_same (by omega) _ _ _ (fun _ hp => segments_le hp) (segments_getElem? hj)

theorem State.StoreOk.submitted {s : State} (h : s.StoreOk) (hroom : s.hasRoom) : s.submitted.StoreOk where
  legal := h.legal
  len_le_depth := by rw [h.submitted_outLen hroom]; exact hroom
  stored i hi := by
    have hlegal := (Config.legal_iff _).1 h.legal
    rw [h.submitted_outLen hroom] at hi
    rcases Nat.lt_or_ge i s.block.outLen.toNat with hold | hnew
    · rw [h.submitted_slot_old hold]
      exact h.stored i hold
    · obtain ⟨j, rfl⟩ := Nat.exists_eq_add_of_le hnew
      have hj : j < segmentCount s.cfg s.din.length := by omega
      have hmp : 0 < s.cfg.MP := by simp only [Config.MP, headerSize]; omega
      exact ⟨_, segment_length_pos hmp hj, segment_length_le _ _ _, h.submitted_slot_new hj⟩
  canonical := storedMem_wf _ _ h.canonical
  inStore x hx := by
    have hlegal := (Config.legal_iff _).1 h.legal
    rcases mem_storedMem (by omega) _ _ (fun _ hp => segments_le hp) hx with hnew | hold
    · rw [segments_length] at hnew
      exact Nat.lt_of_lt_of_le hnew (Nat.mul_le_mul_right _ hroom)
    · exact h.inStore x hold

theorem State.Inv.submitted_ready {s : State} (h : s.Inv) (hroom : s.hasRoom) (hrun : s.block.sMode ≠ .down) :
    s.submitted.ReadyToPump where
  toStoreOk := h.storeOk.submitted hroom
  base_le_next := h.base_le_next
  next_le_len := by
    rw [h.storeOk.submitted_outLen hroom]
    exact Nat.le_trans h.next_le_len (Nat.le_add_right _ _)
  next_le_window := h.next_le_window
  timer := h.timer
  cursor := h.cursor
  running := hrun

/-! ### The state from which S_ACK pumps (R143, R144) -/

/-- The clamp of R143 loses nothing in 22 bits. -/
theorem ackedBase_toNat (base next : Counter) (q : SeqNum) :
    (ackedBase base next q).toNat = min (max base.toNat (q.toNat + 1)) next.toNat := by
  have := next.isLt
  simp only [ackedBase, BitVec.toNat_ofNat]
  omega

/-- `base` moved and the timer action taken, written out by fields: the timer runs if the window has not drained. -/
theorem State.ackedBy_eq (s : State) (q : SeqNum) : s.ackedBy q = { s with
    block := { s.block with
      base := ackedBase s.block.base s.block.nextSeqNum q
      tmrRun := !decide (ackedBase s.block.base s.block.nextSeqNum q = s.block.nextSeqNum) }
    events := [if ackedBase s.block.base s.block.nextSeqNum q = s.block.nextSeqNum then .tmrStop
      else .tmrStart s.cfg.T] } := by
  simp only [State.ackedBy, State.ackTimer, State.setBase_base, State.setBase_nextSeqNum, State.clearEvents_block]
  by_cases hdrained : ackedBase s.block.base s.block.nextSeqNum q = s.block.nextSeqNum
  · simp only [hdrained, decide_true]; rfl
  · simp only [hdrained, decide_false]; rfl

theorem State.Inv.ackedBy_ready {s : State} (h : s.Inv) (hrun : s.block.sMode ≠ .down) (q : SeqNum) :
    (s.ackedBy q).ReadyToPump := by
  have hacked := ackedBase_toNat s.block.base s.block.nextSeqNum q
  have hnext := h.base_le_next
  have hwindow := h.next_le_window
  rw [State.ackedBy_eq]
  exact
    { toStoreOk := h.storeOk.congr rfl rfl rfl
      base_le_next := by simp only; omega
      next_le_len := h.next_le_len
      next_le_window := by simp only; omega
      timer := fun hlt => by
        have hne : ackedBase s.block.base s.block.nextSeqNum q ≠ s.block.nextSeqNum := fun he => by
          simp [he] at hlt
        simp [hne]
      cursor := h.cursor
      running := hrun }

/-! ### The moves of a session -/

/-- The block with other contents in the registers that no frame of the session depends on; the timer is not stopped,
and DOWN is not entered (R25 to R29). -/
structure Block.KeepsWindow (b b' : Block) : Prop where
  base : b'.base = b.base
  next : b'.nextSeqNum = b.nextSeqNum
  outLen : b'.outLen = b.outLen
  out : b'.out = b.out
  timer : b.tmrRun = true → b'.tmrRun = true
  cursor : b'.expectedSeqNum = b.expectedSeqNum ∨ b'.expectedSeqNum.toNat ≤ 2 ^ 21
  down : b'.sMode = .down → b.sMode = .down ∧ b'.tmrRun = b.tmrRun ∧ b'.abort = b.abort

theorem Block.KeepsWindow.refl (b : Block) : b.KeepsWindow b :=
  ⟨rfl, rfl, rfl, rfl, id, .inl rfl, fun h => ⟨h, rfl, rfl⟩⟩

/-- The block that S_INIT leaves: an empty window, the timer stopped, mode OPEN (R132). -/
def Block.restarted (b : Block) : Block :=
  { b with sMode := .opened, base := 0#22, nextSeqNum := 0#22, outLen := 0#22, tmrRun := false }

/-- Everything an operation can do inside a session: leave the window alone, submit a message for which the store has
room, or take an acknowledgment. -/
inductive SessionMove (s : State) : State → Prop where
  | kept {b : Block} {rsp : Word} {dout : Bytes} {events : List Event} (h : s.block.KeepsWindow b) :
    SessionMove s (s.answered b rsp dout events)
  | submitted {rsp : Word} {dout : Bytes} (hrun : s.block.sMode ≠ .down) (hroom : s.hasRoom) :
    SessionMove s (s.submitted.pumpResult.respond rsp dout)
  | acked {q : SeqNum} {rsp : Word} {dout : Bytes} (hrun : s.block.sMode ≠ .down) :
    SessionMove s ((s.ackedBy q).pumpResult.respond rsp dout)

/-- An answer that leaves the block as it is (R198). -/
theorem SessionMove.unchanged {s : State} {rsp : Word} {dout : Bytes} {events : List Event} :
    SessionMove s (s.answered s.block rsp dout events) :=
  .kept (.refl _)

theorem SessionMove.of_turnedAway {s t : State} {i : Instr} (h : s.turnedAway i t) : SessionMove s t := by
  rcases h with ⟨_, rfl⟩ | ⟨_, _, rfl⟩ <;> exact .unchanged

theorem SessionMove.cfg_eq {s t : State} (h : SessionMove s t) : t.cfg = s.cfg := by
  cases h with
  | kept | submitted => rfl
  | acked => rw [State.ackedBy_eq]; rfl

theorem SessionMove.inputs_eq {s t : State} (h : SessionMove s t) : t.inputs = s.inputs := by
  cases h with
  | kept | submitted => rfl
  | acked => rw [State.ackedBy_eq]; rfl

/-- A sender operation that DOWN does not serve runs in another mode (R131). -/
theorem State.served.running {s : State} {i : Instr} (h : s.served i) (hi : senderServes i .down = false) :
    s.block.sMode ≠ .down := by
  intro hdown
  have hserves : (senderServes i s.block.sMode && receiverServes i s.block.rOpen) = true := h.2
  rw [hdown, hi] at hserves
  cases hserves

/-- Every operation but a served S_INIT makes a move of the session. -/
theorem exec_next {i : Instr} {s t : State} (h : exec i s = .next t) : SessionMove s t ∨
    (i = .sInit ∧ ∃ rsp dout events, t = s.answered s.block.restarted rsp dout events) := by
  cases i with
  | sInit =>
    rcases execSInit_next h with haway | ⟨_, rfl⟩
    · exact .inl (.of_turnedAway haway)
    · exact .inr ⟨rfl, _, _, _, rfl⟩
  | enc q =>
    left
    rcases execEnc_next h with haway | ⟨_, ⟨_, rfl⟩ | ⟨_, rfl⟩⟩
    · exact .of_turnedAway haway
    · exact .unchanged
    · exact .unchanged
  | dec =>
    left
    rcases (execDec_next h).2 with haway | ⟨_, ⟨_, _, _, rfl⟩ | ⟨_, _, rfl⟩⟩
    · exact .of_turnedAway haway
    · exact .unchanged
    · exact .unchanged
  | sFinal =>
    left
    rcases execSFinal_next h with haway | ⟨_, rfl⟩
    · exact .of_turnedAway haway
    · exact .kept { Block.KeepsWindow.refl s.block with down := nofun }
  | sSubmit =>
    left
    rcases execSSubmit_next h with haway | ⟨hserved, ⟨_, rfl⟩ | ⟨hroom, _, rfl⟩⟩
    · exact .of_turnedAway haway
    · exact .kept { Block.KeepsWindow.refl s.block with down := fun hdown => absurd hdown (hserved.running rfl) }
    · exact .submitted (hserved.running rfl) hroom
  | sAck =>
    left
    rcases (execSAck_next h).2 with haway | ⟨hserved, ⟨_, _, rfl⟩ | ⟨_, _, _, _, rfl⟩⟩
    · exact .of_turnedAway haway
    · exact .unchanged
    · exact .acked (hserved.running rfl)
  | sTmo =>
    left
    rcases execSTmo_next h with haway | ⟨hserved, _, rfl⟩
    · exact .of_turnedAway haway
    · exact .kept { Block.KeepsWindow.refl s.block with
        timer := fun _ => rfl, down := fun hdown => absurd hdown (hserved.running rfl) }
  | rInit =>
    left
    rcases execRInit_next h with haway | ⟨_, rfl⟩
    · exact .of_turnedAway haway
    · exact .kept { Block.KeepsWindow.refl s.block with cursor := .inr (Nat.zero_le _) }
  | rFinal =>
    left
    rcases execRFinal_next h with haway | ⟨_, rfl⟩
    · exact .of_turnedAway haway
    · exact .kept { Block.KeepsWindow.refl s.block with }
  | rFrame =>
    left
    rcases (execRFrame_next h).2 with haway | ⟨_, ⟨_, _, rfl⟩ | ⟨q, _, _, _, rfl⟩ | ⟨_, _, _, _, rfl⟩⟩
    · exact .of_turnedAway haway
    · exact .unchanged
    · have hcursor : (BitVec.ofNat 22 (q.toNat + 1)).toNat ≤ 2 ^ 21 := by
        have := q.isLt
        rw [BitVec.toNat_ofNat]
        omega
      exact .kept { Block.KeepsWindow.refl s.block with cursor := .inr hcursor }
    · exact .unchanged

/-! ### Every step keeps the invariant -/

theorem State.Inv.of_keepsWindow {s t : State} (h : s.Inv) (hc : t.cfg = s.cfg) (hb : s.block.KeepsWindow t.block) :
    t.Inv := by
  have hstore : t.StoreOk := h.storeOk.congr hc hb.out hb.outLen
  refine hstore.inv ?_ ?_ ?_ ?_ ?_
  · rw [hb.base, hb.next]; exact h.base_le_next
  · rw [hb.base, hb.next, hb.outLen, hc]; exact h.pumped
  · rw [hb.base, hb.next]; exact fun hlt => hb.timer (h.timer hlt)
  · rcases hb.cursor with hsame | hbound
    · rw [hsame]; exact h.cursor
    · exact hbound
  · intro hdown
    obtain ⟨hmode, htmr, habort⟩ := hb.down hdown
    rw [hb.outLen, htmr, habort]
    exact h.fresh hmode

/-- The invariant does not look at the ports. -/
theorem State.Inv.congr {s t : State} (h : s.Inv) (hc : t.cfg = s.cfg) (hb : t.block = s.block) : t.Inv :=
  h.of_keepsWindow hc (hb ▸ .refl _)

theorem SessionMove.inv {s t : State} (hm : SessionMove s t) (h : s.Inv) : t.Inv := by
  cases hm with
  | kept hb => exact h.of_keepsWindow rfl hb
  | submitted hrun hroom => exact (h.submitted_ready hroom hrun).pumpResult_inv.congr rfl rfl
  | acked hrun => exact (h.ackedBy_ready hrun _).pumpResult_inv.congr rfl rfl

theorem State.Inv.restarted {s : State} (h : s.Inv) (rsp : Word) (dout : Bytes) (events : List Event) :
    (s.answered s.block.restarted rsp dout events).Inv := by
  have hstore : (s.answered s.block.restarted rsp dout events).StoreOk := h.storeOk.emptied rfl rfl rfl
  exact hstore.inv (Nat.le_refl _) (Nat.min_zero _).symm (fun hlt => absurd hlt (Nat.lt_irrefl _)) h.cursor nofun

theorem exec_inv {i : Instr} {s t : State} (h : s.Inv) (he : exec i s = .next t) : t.Inv := by
  rcases exec_next he with hm | ⟨_, rsp, dout, events, rfl⟩
  · exact hm.inv h
  · exact h.restarted rsp dout events

/-- Everything a step can do with a reset that cuts an operation short: the reset state, with some events out (R220). -/
theorem step_resetDuring_next {s t : State} {c : Command} {n : Nat} {cfg : Config} {rest : List Input}
    (hi : s.inputs = .resetDuring c n cfg :: rest) (h : step s = .next t) :
    cfg.legal = true ∧ ∃ events, t = { State.resetWith cfg with inputs := rest, events := events } := by
  unfold step at h
  split at h
  · simp only [hi] at h
    split at h
    · unfold runReset at h
      split at h
      · next hl => cases h; exact ⟨hl, _, rfl⟩
      · cases h
    · cases h
    · cases h
  · cases h

/-- With nothing presented a step changes nothing (R214, R223). -/
theorem step_idle_next {s t : State} (hi : s.inputs = []) (h : step s = .next t) : t = s := by
  unfold step at h
  split at h
  · simp only [hi] at h
    cases h; rfl
  · cases h

/-- Settles O11, by what the next input is. -/
theorem everyStepKeepsInv : Obligations.EveryStepKeepsInv := by
  intro s t h hstep
  cases hi : s.inputs with
  | nil => rwa [step_idle_next hi hstep]
  | cons x rest =>
    cases x with
    | command c =>
      have htaken : State.Inv { s with inputs := rest, din := c.din } := h.congr rfl rfl
      obtain ⟨_, ⟨_, _, rfl⟩ | ⟨i, _, hexec⟩⟩ := step_command_next hi hstep
      · exact SessionMove.unchanged.inv htaken
      · exact exec_inv htaken hexec
    | reset cfg =>
      obtain ⟨hlegal, rfl⟩ := step_reset_next hi hstep
      exact (State.resetWith_inv hlegal).congr rfl rfl
    | resetDuring c n cfg =>
      obtain ⟨hlegal, _, rfl⟩ := step_resetDuring_next hi hstep
      exact (State.resetWith_inv hlegal).congr rfl rfl

end Sys2Proof.Machine
end

section
/-! PROOFS. One session of the sender (10_state.md R38, 20_memory.md R58): what is stored decodes to its own index, a
move of the session only extends it, and so does a run of any length. -/

namespace Sys2Proof.Machine

/-! ### A frame built decodes to what it was built from (R105, R109, R114) -/

/-- The bytes at offsets 1 to 3 are the digits of the sequence number (R72, R105). -/
theorem seqDigits_encodeFrame (cfg : Config) (q : SeqNum) (p : Bytes) :
    (byteAt (encodeFrame cfg q p) 1).toNat = q.toNat / 16384 ∧
    (byteAt (encodeFrame cfg q p) 2).toNat = q.toNat / 128 % 128 ∧
    (byteAt (encodeFrame cfg q p) 3).toNat = q.toNat % 128 := by
  have hdigits := digits128_toNat q
  simp only [digits128, List.map_cons, List.map_nil, List.cons.injEq, and_true] at hdigits
  rw [encodeFrame_eq]
  exact hdigits

theorem decodedSeq_encodeFrame (cfg : Config) (q : SeqNum) (p : Bytes) : decodedSeq (encodeFrame cfg q p) = q := by
  obtain ⟨h1, h2, h3⟩ := seqDigits_encodeFrame cfg q p
  exact undigits128_of_toNat h1 h2 h3

/-- The length byte holds the length of the payload: MP is at most 255 (R9). -/
theorem lengthByte_encodeFrame {cfg : Config} (hcap : cfg.C ≤ 262) (q : SeqNum) {p : Bytes} (hp : p.length ≤ cfg.MP) :
    (byteAt (encodeFrame cfg q p) 0).toNat = p.length := by
  simp only [Config.MP, headerSize] at hp
  show (BitVec.ofNat 8 p.length).toNat = p.length
  rw [BitVec.toNat_ofNat]
  omega

theorem decodedPayload_encodeFrame {cfg : Config} (hcap : cfg.C ≤ 262) (q : SeqNum) {p : Bytes}
    (hp : p.length ≤ cfg.MP) : decodedPayload (encodeFrame cfg q p) = p := by
  rw [decodedPayload, lengthByte_encodeFrame hcap q hp, encodeFrame_eq]
  simp [headerSize]

theorem decodeFrame_encodeFrame {cfg : Config} (hcap : cfg.C ≤ 262) (q : SeqNum) {p : Bytes}
    (hp : p.length ≤ cfg.MP) : decodeFrame cfg (encodeFrame cfg q p) = .ok q p := by
  have hseq := decodedSeq_encodeFrame cfg q p
  have hpayload := decodedPayload_encodeFrame hcap q hp
  refine (decodeFrame_ok_iff _ _ _ _).2 ⟨?_, ?_, hseq.symm, hpayload.symm, ?_⟩
  · rw [lengthByte_encodeFrame hcap q hp]
    exact hp
  · have hq := q.isLt
    obtain ⟨h1, h2, h3⟩ := seqDigits_encodeFrame cfg q p
    omega
  · rw [hseq, hpayload, encodeFrame_eq]
    rfl

/-- The frame of a slot below `out_len` decodes to the index of the slot (R38). -/
theorem State.StoreOk.slot_decodes {s : State} (h : s.StoreOk) {k : Nat} (hk : k < s.block.outLen.toNat) :
    ∃ f p, s.slot k = some f ∧ decodeFrame s.cfg f = .ok (BitVec.ofNat 21 k) p := by
  obtain ⟨p, _, hp, hslot⟩ := h.stored k hk
  have hlegal := (Config.legal_iff _).1 h.legal
  exact ⟨_, p, hslot, decodeFrame_encodeFrame (by omega) _ hp⟩

/-! ### What a session leaves unchanged -/

/-- The state `t` is a later one of the session of `s`: no counter of the sender is lower and no frame that was stored
reads otherwise. -/
structure State.ExtendsTo (s t : State) : Prop where
  cfg : t.cfg = s.cfg
  base : s.block.base.toNat ≤ t.block.base.toNat
  next : s.block.nextSeqNum.toNat ≤ t.block.nextSeqNum.toNat
  outLen : s.block.outLen.toNat ≤ t.block.outLen.toNat
  slot : ∀ k, k < s.block.outLen.toNat → t.slot k = s.slot k

theorem State.ExtendsTo.refl (s : State) : s.ExtendsTo s :=
  ⟨rfl, Nat.le_refl _, Nat.le_refl _, Nat.le_refl _, fun _ _ => rfl⟩

theorem State.ExtendsTo.trans {s t u : State} (hst : s.ExtendsTo t) (htu : t.ExtendsTo u) : s.ExtendsTo u where
  cfg := htu.cfg.trans hst.cfg
  base := Nat.le_trans hst.base htu.base
  next := Nat.le_trans hst.next htu.next
  outLen := Nat.le_trans hst.outLen htu.outLen
  slot k hk := (htu.slot k (Nat.lt_of_lt_of_le hk hst.outLen)).trans (hst.slot k hk)

theorem State.ExtendsTo.of_keepsWindow {s t : State} (hc : t.cfg = s.cfg) (hb : s.block.KeepsWindow t.block) :
    s.ExtendsTo t where
  cfg := hc
  base := by rw [hb.base]
  next := by rw [hb.next]
  outLen := by rw [hb.outLen]
  slot k _ := State.slot_congr hc hb.out k

/-- Pump and the answer after it only extend a session. -/
theorem State.ReadyToPump.pumpResult_extends {s : State} (h : s.ReadyToPump) (rsp : Word) (dout : Bytes) :
    s.ExtendsTo (s.pumpResult.respond rsp dout) where
  cfg := rfl
  base := Nat.le_refl _
  next := h.next_le_pumpResult
  outLen := Nat.le_refl _
  slot _ _ := rfl

theorem State.StoreOk.submitted_extends {s : State} (h : s.StoreOk) (hroom : s.hasRoom) :
    s.ExtendsTo s.submitted where
  cfg := rfl
  base := Nat.le_refl _
  next := Nat.le_refl _
  outLen := by rw [h.submitted_outLen hroom]; exact Nat.le_add_right _ _
  slot _ hk := h.submitted_slot_old hk

/-- An acknowledgment never moves `base` back (R143). -/
theorem State.Inv.ackedBy_extends {s : State} (h : s.Inv) (q : SeqNum) : s.ExtendsTo (s.ackedBy q) := by
  have hacked := ackedBase_toNat s.block.base s.block.nextSeqNum q
  have hnext := h.base_le_next
  rw [State.ackedBy_eq]
  exact
    { cfg := rfl
      base := by simp only; omega
      next := Nat.le_refl _
      outLen := Nat.le_refl _
      slot := fun _ _ => rfl }

theorem SessionMove.extends {s t : State} (hm : SessionMove s t) (h : s.Inv) : s.ExtendsTo t := by
  cases hm with
  | kept hb => exact .of_keepsWindow rfl hb
  | submitted hrun hroom =>
    exact (h.storeOk.submitted_extends hroom).trans ((h.submitted_ready hroom hrun).pumpResult_extends _ _)
  | acked hrun => exact (h.ackedBy_extends _).trans ((h.ackedBy_ready hrun _).pumpResult_extends _ _)

/-! ### A run inside a session -/

theorem endsSession_of_sInit {c : Command} (h : decode c.word = .ok .sInit) :
    (Input.command c).endsSession = true := by
  simp [Input.endsSession, h]

/-- A command that starts no session makes a move of the session, from the state with the command taken. -/
theorem step_command_sessionMove {s t : State} {c : Command} {rest : List Input}
    (hi : s.inputs = .command c :: rest) (hc : (Input.command c).endsSession = false) (h : step s = .next t) :
    SessionMove { s with inputs := rest, din := c.din } t := by
  obtain ⟨_, ⟨_, _, rfl⟩ | ⟨i, hd, hexec⟩⟩ := step_command_next hi h
  · exact .unchanged
  · rcases exec_next hexec with hm | ⟨rfl, _⟩
    · exact hm
    · rw [endsSession_of_sInit hd] at hc
      cases hc

/-- A step that neither starts a session nor resets takes one input and extends the session. -/
theorem step_extends {s t : State} (h : s.Inv) (hin : ∀ x ∈ s.inputs.take 1, x.endsSession = false)
    (hstep : step s = .next t) : t.inputs = s.inputs.drop 1 ∧ s.ExtendsTo t := by
  cases hi : s.inputs with
  | nil =>
    rw [step_idle_next hi hstep]
    exact ⟨hi, .refl s⟩
  | cons x rest =>
    have hx : x.endsSession = false := hin x (by simp [hi])
    cases x with
    | command c =>
      have htaken : s.ExtendsTo { s with inputs := rest, din := c.din } := .of_keepsWindow rfl (.refl _)
      have hm := step_command_sessionMove hi hx hstep
      exact ⟨hm.inputs_eq, htaken.trans (hm.extends (h.congr rfl rfl))⟩
    | reset | resetDuring => cases hx

/-- A run of one step more is a step and a run from its next state. -/
theorem run_succ_next {M : Host.Core} {n : Nat} {s t : M.State} (h : M.run (n + 1) s = .next t) :
    ∃ u, M.step s = .next u ∧ M.run n u = .next t := by
  rw [Host.Core.run] at h
  split at h
  · next u hstep => exact ⟨u, hstep, h⟩
  · cases h
  · cases h

theorem run_extends (n : Nat) {s t : State} (h : s.Inv) (hin : ∀ x ∈ s.inputs.take n, x.endsSession = false)
    (hrun : Sys2Proof.core.run n s = .next t) : s.ExtendsTo t := by
  induction n generalizing s with
  | zero =>
    cases hrun
    exact .refl _
  | succ n ih =>
    obtain ⟨u, hstep, hrest⟩ := run_succ_next hrun
    have hfirst : ∀ x ∈ s.inputs.take 1, x.endsSession = false := fun x hx =>
      hin x (List.take_subset_take_left _ (Nat.le_add_left 1 n) hx)
    obtain ⟨hinputs, hext⟩ := step_extends h hfirst hstep
    have hlater : ∀ x ∈ u.inputs.take n, x.endsSession = false := fun x hx => by
      rw [hinputs, List.take_drop, Nat.add_comm] at hx
      exact hin x (List.mem_of_mem_drop hx)
    exact hext.trans (ih (everyStepKeepsInv s u h hstep) hlater hrest)

/-- Settles O42: the run extends the session, and a slot that reads as before decodes as it did. -/
theorem sessionNeverRewritesAFrame : Obligations.SessionNeverRewritesAFrame := by
  intro n s t h hin hrun
  have hext := run_extends n h hin hrun
  refine ⟨hext.base, hext.next, hext.outLen, fun k hk => ⟨hext.slot k hk, ?_⟩⟩
  rw [hext.slot k hk, hext.cfg]
  exact h.storeOk.slot_decodes hk

end Sys2Proof.Machine
end

section
/-! PROOFS. Every command that can be presented has a result (10_state.md R40, 20_memory.md R56, R59). -/

namespace Sys2Proof.Machine

/-! ### A step is the operation its word decodes to (R40, R64) -/

theorem step_command {s : State} {c : Command} {rest : List Input} (hlegal : s.cfg.legal = true)
    (hi : s.inputs = .command c :: rest) : step s = runCommand c (s.withInputs rest) := by
  rw [step, if_pos hlegal, hi]

theorem runCommand_ok {c : Command} {i : Instr} (hd : decode c.word = .ok i) (s : State) :
    runCommand c s = exec i (s.latchDin c.din) := by
  rw [runCommand, hd]

theorem runCommand_illegal {c : Command} {e : IllegalWord} (hd : decode c.word = .error e) (s : State) :
    runCommand c s = (s.latchDin c.din).illegalCommand := by
  rw [runCommand, hd]

/-- Settles O5, by the equations of the step and of the command port. -/
theorem stepRunsTheDecodedOperation : Obligations.StepRunsTheDecodedOperation := by
  intro s c rest i hlegal hi hd
  rw [step_command hlegal hi, runCommand_ok hd]
  rfl

/-! ### Outcomes that are a next state -/

/-- The outcome is no fault and no refusal. -/
def Answers (r : Outcome) : Prop := ∃ t, r = .next t

theorem State.raise_answers (s : State) (st : Status) (c : Option Cause) (q : SeqNum) : Answers (s.raise st c q) :=
  ⟨_, rfl⟩

theorem State.finish_answers (s : State) (q : SeqNum) (dout : Bytes) : Answers (s.finish q dout) :=
  ⟨_, rfl⟩

/-- An operation turned away has its answer, so only its body, where it is served, is in question (R200). -/
theorem State.serve_answers {s : State} {i : Instr} {body : State → Outcome}
    (h : s.served i → Answers (body s.clearEvents)) : Answers (s.serve i body) := by
  rcases s.serve_cases i body with ⟨_, e⟩ | ⟨_, _, e⟩ | ⟨ha, hs, e⟩ <;> rw [e]
  · exact s.clearEvents.raise_answers _ _ _
  · exact s.clearEvents.raise_answers _ _ _
  · exact h ⟨ha, hs⟩

theorem State.withFrame_answers {s : State} {body : Bytes → Outcome} (hlen : s.din.length = s.cfg.C)
    (h : Answers (body s.din)) : Answers (s.withFrame body) := by
  rwa [State.withFrame_run hlen]

theorem orFault_answers {r : Except Fault State} {s : State} {body : State → Outcome} (hr : r = .ok s)
    (h : Answers (body s)) : Answers (orFault r body) := by
  rwa [hr]

/-! ### Each operation -/

theorem execEnc_answers (q : SeqNum) (s : State) : Answers (execEnc q s) := by
  refine State.serve_answers fun _ => ?_
  split
  · exact State.raise_answers _ _ _ _
  · exact State.finish_answers _ _ _

theorem execDec_answers {s : State} (hlen : s.din.length = s.cfg.C) : Answers (execDec s) := by
  refine State.withFrame_answers hlen (State.serve_answers fun _ => ?_)
  split
  · exact State.finish_answers _ _ _
  · exact State.raise_answers _ _ _ _

theorem execSInit_answers (s : State) : Answers (execSInit s) :=
  State.serve_answers fun _ => State.finish_answers _ _ _

theorem execSFinal_answers (s : State) : Answers (execSFinal s) :=
  State.serve_answers fun _ => State.finish_answers _ _ _

theorem execRInit_answers (s : State) : Answers (execRInit s) :=
  State.serve_answers fun _ => State.finish_answers _ _ _

theorem execRFinal_answers (s : State) : Answers (execRFinal s) :=
  State.serve_answers fun _ => State.finish_answers _ _ _

theorem execRFrame_answers {s : State} (hlen : s.din.length = s.cfg.C) : Answers (execRFrame s) := by
  refine State.withFrame_answers hlen (State.serve_answers fun _ => ?_)
  split
  · exact State.raise_answers _ _ _ _
  · split
    · exact State.finish_answers _ _ _
    · exact State.raise_answers _ _ _ _

/-- With room for the message the store takes it, and pump then reads only slots that hold a frame. -/
theorem execSSubmit_answers {s : State} (h : s.Inv) : Answers (execSSubmit s) := by
  refine State.serve_answers fun hserved => ?_
  split
  · exact State.raise_answers _ _ _ _
  · next hroom =>
    have hready := h.submitted_ready (Nat.le_of_not_lt hroom) (hserved.running rfl)
    refine orFault_answers (storeFrames_ok _ _ _ ?_) (orFault_answers hready.pump_ok (State.finish_answers _ _ _))
    rw [segments_length]
    exact Nat.le_of_not_lt hroom

theorem execSAck_answers {s : State} (h : s.Inv) (hlen : s.din.length = s.cfg.C) : Answers (execSAck s) := by
  refine State.withFrame_answers hlen (State.serve_answers fun hserved => ?_)
  split
  · exact State.raise_answers _ _ _ _
  · next q _ _ =>
    exact orFault_answers (h.ackedBy_ready (hserved.running rfl) q).pump_ok (State.finish_answers _ _ _)

/-- Every slot of the window lies below `out_len`, so it can be read. -/
theorem execSTmo_answers {s : State} (h : s.Inv) : Answers (execSTmo s) := by
  refine State.serve_answers fun _ => ?_
  have hwindow : s.block.base.toNat + (s.block.nextSeqNum.toNat - s.block.base.toNat) ≤ s.block.outLen.toNat := by
    have := h.base_le_next
    have := h.next_le_len
    omega
  exact orFault_answers (sendSlots_ok _ _ _ (h.storeOk.readable hwindow)) (State.finish_answers _ _ _)

theorem exec_answers {i : Instr} {s : State} (h : s.Inv) (hwf : i.wellFormed s.cfg s.din = true) :
    Answers (exec i s) := by
  cases i with
  | enc q => exact execEnc_answers q s
  | dec => exact execDec_answers (beq_iff_eq.1 hwf)
  | sInit => exact execSInit_answers s
  | sFinal => exact execSFinal_answers s
  | sSubmit => exact execSSubmit_answers h
  | sAck => exact execSAck_answers h (beq_iff_eq.1 hwf)
  | sTmo => exact execSTmo_answers h
  | rInit => exact execRInit_answers s
  | rFinal => exact execRFinal_answers s
  | rFrame => exact execRFrame_answers (beq_iff_eq.1 hwf)

/-- Settles O12: an illegal word is always answered, a legal one by its operation. -/
theorem everyCommandHasAResult : Obligations.EveryCommandHasAResult := by
  intro s c rest h hi hwf
  rw [step_command h.legal hi]
  cases hd : decode c.word with
  | error e =>
    rw [runCommand_illegal hd]
    exact State.raise_answers _ _ _ _
  | ok i =>
    rw [runCommand_ok hd]
    exact exec_answers (h.congr rfl rfl) (hwf i hd)

end Sys2Proof.Machine
end

section
/-! PROOFS. `tmr_run` and the timer (10_state.md R25, 60_exceptions.md R206, R209). -/

namespace Sys2Proof.Machine

theorem timerAfter_append (armed : Bool) (es fs : List Event) :
    timerAfter armed (es ++ fs) = timerAfter (timerAfter armed es) fs :=
  List.foldl_append

/-- The timer does not hear a frame that is sent. -/
theorem timerAfter_sends (armed : Bool) (s : State) (i n : Nat) : timerAfter armed (s.sends i n) = armed := by
  induction n generalizing i with
  | zero => rfl
  | succ n ih =>
    rw [State.sends_succ]
    exact ih (i + 1)

/-- Pump keeps `tmr_run` in step with the timer. -/
theorem State.pumpResult_tmrRun {s : State} {armed : Bool} (h : s.block.tmrRun = timerAfter armed s.events) :
    s.pumpResult.block.tmrRun = timerAfter armed s.pumpResult.events := by
  simp only [State.pumpResult, timerAfter_append, timerAfter_sends, ← h]
  cases s.startsWindow
  · exact Bool.or_false _
  · exact Bool.or_true _

/-- The timer action of S_ACK keeps `tmr_run` in step with the timer (R144). -/
theorem State.ackedBy_tmrRun (s : State) (q : SeqNum) :
    (s.ackedBy q).block.tmrRun = timerAfter s.block.tmrRun (s.ackedBy q).events := by
  rw [State.ackedBy_eq]
  by_cases hdrained : ackedBase s.block.base s.block.nextSeqNum q = s.block.nextSeqNum <;>
    simp [hdrained, timerAfter, timerHears]

theorem State.turnedAway.tmrRun {s t : State} {i : Instr} (h : s.turnedAway i t) :
    t.block.tmrRun = timerAfter s.block.tmrRun t.events := by
  rcases h with ⟨_, rfl⟩ | ⟨_, _, rfl⟩ <;> rfl

/-- Settles O43, operation by operation: of those served only S_INIT, S_SUBMIT, S_ACK and S_TMO emit timer events. -/
theorem tmrRunRecordsTheLastTimerEvent : Obligations.TmrRunRecordsTheLastTimerEvent := by
  intro i s t h
  cases i with
  | enc q =>
    rcases execEnc_next h with haway | ⟨_, ⟨_, rfl⟩ | ⟨_, rfl⟩⟩
    · exact haway.tmrRun
    · rfl
    · rfl
  | dec =>
    rcases (execDec_next h).2 with haway | ⟨_, ⟨_, _, _, rfl⟩ | ⟨_, _, rfl⟩⟩
    · exact haway.tmrRun
    · rfl
    · rfl
  | sInit =>
    rcases execSInit_next h with haway | ⟨_, rfl⟩
    · exact haway.tmrRun
    · rfl
  | sFinal =>
    rcases execSFinal_next h with haway | ⟨_, rfl⟩
    · exact haway.tmrRun
    · rfl
  | sSubmit =>
    rcases execSSubmit_next h with haway | ⟨_, ⟨_, rfl⟩ | ⟨_, _, rfl⟩⟩
    · exact haway.tmrRun
    · rfl
    · exact State.pumpResult_tmrRun (s := s.submitted) rfl
  | sAck =>
    rcases (execSAck_next h).2 with haway | ⟨_, ⟨_, _, rfl⟩ | ⟨q, _, _, _, rfl⟩⟩
    · exact haway.tmrRun
    · rfl
    · exact State.pumpResult_tmrRun (s.ackedBy_tmrRun q)
  | sTmo =>
    rcases execSTmo_next h with haway | ⟨_, _, rfl⟩
    · exact haway.tmrRun
    · exact (timerAfter_sends true s _ _).symm
  | rInit =>
    rcases execRInit_next h with haway | ⟨_, rfl⟩
    · exact haway.tmrRun
    · rfl
  | rFinal =>
    rcases execRFinal_next h with haway | ⟨_, rfl⟩
    · exact haway.tmrRun
    · rfl
  | rFrame =>
    rcases (execRFrame_next h).2 with haway | ⟨_, ⟨_, _, rfl⟩ | ⟨_, _, _, _, rfl⟩ | ⟨_, _, _, _, rfl⟩⟩
    · exact haway.tmrRun
    · rfl
    · rfl
    · rfl

end Sys2Proof.Machine
end

section
/-! PROOFS. The command word (30_encoding.md R78 to R81, R90): when a word decodes, the two directions of the inverse,
and the rows of the opcode map. -/

namespace Sys2Proof

/-! ### Decoding and encoding (R78, R80, R81, R90) -/

/-- When a word is an operation's: its `op` code selects it, and no bit that the operation does not read is
set (R81). -/
theorem decode_ok_iff (w : Word) (i : Instr) : decode w = .ok i ↔
    selectOp (opField w).toNat (seqField w) = some i ∧ zeroField w = 0#7 ∧
    (i.takesSeq = false → seqField w = 0#21) := by
  unfold decode
  constructor
  · intro h
    split at h
    · cases h
    · next hop =>
      split at h
      · cases h
      · next hzero =>
        split at h
        · cases h
        · next hseq => cases h; exact ⟨hop, by simpa using hzero, by simpa using hseq⟩
  · rintro ⟨hop, hzero, hseq⟩
    simpa [hop, hzero] using hseq

/-- The `op` code and the `seq` field of an operation's word select it (R80, R90). -/
theorem selectOp_opCode (i : Instr) : selectOp i.opCode.toNat i.seqOperand = some i := by
  cases i <;> rfl

theorem Instr.seqOperand_of_takesSeq {i : Instr} (h : i.takesSeq = false) : i.seqOperand = 0#21 := by
  cases i with
  | enc => cases h
  | _ => rfl

theorem decode_encode (i : Instr) : decode (encode i) = .ok i := by
  obtain ⟨hop, hzero, hseq⟩ := fields_of_word i.opCode 0#7 i.seqOperand
  rw [decode_ok_iff, encode, hop, hzero, hseq]
  exact ⟨selectOp_opCode i, rfl, Instr.seqOperand_of_takesSeq⟩

/-- A legal word is put together again from the operation it decodes to: no bit is dropped (R78, R81). -/
theorem encode_of_decode {w : Word} {i : Instr} (h : decode w = .ok i) : encode i = w := by
  obtain ⟨hselect, hzero, hclear⟩ := (decode_ok_iff w i).1 h
  obtain ⟨hop, hoperand⟩ := selectOp_inv hselect
  have hseq : i.seqOperand = seqField w := by
    rw [hoperand]
    split
    · rfl
    · next htakes => exact (hclear (Bool.eq_false_iff.2 htakes)).symm
  rw [encode, hop, ← hzero, hseq, word_of_fields]

theorem decode_ok_iff_encode (w : Word) (i : Instr) : decode w = .ok i ↔ encode i = w :=
  ⟨encode_of_decode, fun h => h ▸ decode_encode i⟩

/-- Settles O1: the two directions are `encode_of_decode` and `decode_encode`. -/
theorem decodeInvertsEncode : Obligations.DecodeInvertsEncode :=
  decode_ok_iff_encode

/-- Settles O4, by encoding each operation instead of decoding its word. -/
theorem wordsOfTheMapDecode : Obligations.WordsOfTheMapDecode := by
  unfold Obligations.WordsOfTheMapDecode
  simp only [decode_ok_iff_encode]
  decide

/-! ### The rows of the opcode map (R80) -/

theorem OpcodeRow.selects_iff (row : OpcodeRow) (w : Word) : row.selects w = true ↔ w &&& row.mask = row.pattern :=
  beq_iff_eq

/-- A row whose mask has every bit set is selected by its `match` alone. -/
theorem OpcodeRow.eq_pattern_of_selects {row : OpcodeRow} {w : Word} (hmask : row.mask = BitVec.allOnes 32)
    (h : row.selects w = true) : w = row.pattern := by
  rwa [OpcodeRow.selects_iff, hmask, BitVec.and_allOnes] at h

/-- A word selects the row of ENC only if it is the word of an ENC, with any `seq`. -/
theorem encode_enc_of_selects {w : Word} (h : w &&& 0xFFE00000#32 = 0x10000000#32) :
    encode (.enc (seqField w)) = w := by
  have hfields : opField w ++ zeroField w ++ 0#21 = 0x1#4 ++ 0#7 ++ 0#21 := by
    rw [← encMask_of_fields _ _ (seqField w), word_of_fields]
    exact h
  obtain ⟨hop, hzero, _⟩ := fields_of_word (opField w) (zeroField w) 0#21
  obtain ⟨hop', hzero', _⟩ := fields_of_word 0x1#4 0#7 0#21
  rw [hfields] at hop hzero
  have hw := word_of_fields w
  rwa [← hop, ← hzero, hop', hzero'] at hw

/-- A word that selects a row is the word of an operation with the row's mnemonic. -/
theorem exists_encode_of_selects {row : OpcodeRow} (hrow : row ∈ opcodeMap) {w : Word} (h : row.selects w = true) :
    ∃ i, encode i = w ∧ i.mnemonic = row.mnemonic := by
  simp only [opcodeMap, List.mem_cons, List.not_mem_nil, or_false] at hrow
  rcases hrow with rfl | rfl | rfl | rfl | rfl | rfl | rfl | rfl | rfl | rfl
  · exact ⟨.enc (seqField w), encode_enc_of_selects ((OpcodeRow.selects_iff _ w).1 h), rfl⟩
  · exact ⟨.dec, (OpcodeRow.eq_pattern_of_selects rfl h).symm, rfl⟩
  · exact ⟨.sInit, (OpcodeRow.eq_pattern_of_selects rfl h).symm, rfl⟩
  · exact ⟨.sFinal, (OpcodeRow.eq_pattern_of_selects rfl h).symm, rfl⟩
  · exact ⟨.sSubmit, (OpcodeRow.eq_pattern_of_selects rfl h).symm, rfl⟩
  · exact ⟨.sAck, (OpcodeRow.eq_pattern_of_selects rfl h).symm, rfl⟩
  · exact ⟨.sTmo, (OpcodeRow.eq_pattern_of_selects rfl h).symm, rfl⟩
  · exact ⟨.rInit, (OpcodeRow.eq_pattern_of_selects rfl h).symm, rfl⟩
  · exact ⟨.rFinal, (OpcodeRow.eq_pattern_of_selects rfl h).symm, rfl⟩
  · exact ⟨.rFrame, (OpcodeRow.eq_pattern_of_selects rfl h).symm, rfl⟩

/-- Every operation's word selects the row of its mnemonic. -/
theorem exists_row_selects_encode (i : Instr) : Laws.TableRow.Statement i := by
  cases i with
  | enc seq => exact Laws.TableRow.enc seq
  | dec => exact Laws.TableRow.dec
  | sInit => exact Laws.TableRow.sInit
  | sFinal => exact Laws.TableRow.sFinal
  | sSubmit => exact Laws.TableRow.sSubmit
  | sAck => exact Laws.TableRow.sAck
  | sTmo => exact Laws.TableRow.sTmo
  | rInit => exact Laws.TableRow.rInit
  | rFinal => exact Laws.TableRow.rFinal
  | rFrame => exact Laws.TableRow.rFrame

/-- No two rows of the map have the same mnemonic. -/
theorem opcodeMap_mnemonic_injective : ∀ r ∈ opcodeMap, ∀ r' ∈ opcodeMap, r.mnemonic = r'.mnemonic → r = r' := by
  decide

/-- Settles O2: the row that an operation's word selects is the one row with its mnemonic. -/
theorem decoderFollowsOpcodeMap : Obligations.DecoderFollowsOpcodeMap := by
  intro row hrow w
  simp only [decode_ok_iff_encode]
  constructor
  · exact exists_encode_of_selects hrow
  · rintro ⟨i, rfl, hname⟩
    obtain ⟨row', hrow', hname', hselects⟩ := exists_row_selects_encode i
    rwa [opcodeMap_mnemonic_injective row hrow row' hrow' (hname.symm.trans hname'.symm)]

end Sys2Proof
end

section
/-! PROOFS. What `decode` accepts and what it reads of a frame (30_encoding.md R74, R75, R77), and what is no frame
(R79). -/

namespace Sys2Proof.Machine

/-- A byte string of another length than C is no frame to run on (R79, log entry 5). -/
theorem State.withFrame_refused {s : State} {body : Bytes → Outcome} (h : s.din.length ≠ s.cfg.C) :
    s.withFrame body = .refused .dinNotAFrame :=
  if_neg h

/-- Settles O21: the three operations that take a frame look at its length first. -/
theorem frameOfAnotherLengthIsNoCommand : Obligations.FrameOfAnotherLengthIsNoCommand := by
  intro i s hkind hlen
  cases i with
  | dec | sAck | rFrame => simp only [exec, execDec, execSAck, execRFrame, State.withFrame_refused hlen]
  | enc | sInit | sFinal | sSubmit | sTmo | rInit | rFinal => cases hkind

/-- A sequence number is the one decoded exactly when it has the value of the three digits (R101). -/
theorem eq_decodedSeq_iff {f : Bytes} (h1 : (byteAt f 1).toNat ≤ 127) (h2 : (byteAt f 2).toNat ≤ 127)
    (h3 : (byteAt f 3).toNat ≤ 127) (q : SeqNum) : q = decodedSeq f ↔
    q.toNat = (byteAt f 1).toNat * 16384 + (byteAt f 2).toNat * 128 + (byteAt f 3).toNat := by
  rw [← BitVec.toNat_inj, decodedSeq, undigits128_toNat h1 h2 h3]

/-- Settles O22: with digits of at most 127 no carry is lost, so what is decoded is what the bytes name. -/
theorem decodeAcceptsExactlyWellFormedFrames : Obligations.DecodeAcceptsExactlyWellFormedFrames := by
  intro cfg f q p
  rw [decodeFrame_ok_iff]
  constructor
  · rintro ⟨hlen, ⟨h1, h2, h3⟩, hq, rfl, hsum⟩
    exact ⟨hlen, h1, h2, h3, (eq_decodedSeq_iff h1 h2 h3 q).1 hq, rfl, hq ▸ hsum⟩
  · rintro ⟨hlen, h1, h2, h3, hq, rfl, hsum⟩
    have hseq := (eq_decodedSeq_iff h1 h2 h3 q).2 hq
    exact ⟨hlen, ⟨h1, h2, h3⟩, hseq, rfl, hseq ▸ hsum⟩

/-! ### The padding (R74) -/

/-- Frames that agree on their first n bytes agree on each byte below n. -/
theorem byteAt_congr {f g : Bytes} {n i : Nat} (h : f.take n = g.take n) (hi : i < n) : byteAt f i = byteAt g i := by
  rw [byteAt, byteAt, List.getD_eq_getElem?_getD, List.getD_eq_getElem?_getD, ← List.getElem?_take_of_lt hi, h,
    List.getElem?_take_of_lt hi]

/-- The payload lies in the first `7 + f[0]` bytes. -/
theorem decodedPayload_eq (f : Bytes) : decodedPayload f = (f.take (7 + (byteAt f 0).toNat)).drop 7 := by
  rw [decodedPayload, List.drop_take, Nat.add_sub_cancel_left]

/-- Settles O28: every byte that `decode` looks at is among those the frames agree on. -/
theorem decodeIgnoresThePadding : Obligations.DecodeIgnoresThePadding := by
  intro cfg f g _ _ h
  have hbyte : ∀ i, i < 7 → byteAt f i = byteAt g i := fun i hi => byteAt_congr h (by omega)
  have hseq : decodedSeq f = decodedSeq g := by
    rw [decodedSeq, decodedSeq, hbyte 1 (by decide), hbyte 2 (by decide), hbyte 3 (by decide)]
  have hpayload : decodedPayload f = decodedPayload g := by
    rw [decodedPayload_eq, decodedPayload_eq, h, hbyte 0 (by decide)]
  rw [decodeFrame, decodeFrame, hseq, hpayload, hbyte 0 (by decide), hbyte 1 (by decide), hbyte 2 (by decide),
    hbyte 3 (by decide), hbyte 4 (by decide), hbyte 5 (by decide), hbyte 6 (by decide)]

/-! ### The frame of zero bytes (R77) -/

theorem zeros_eq_encodeFrame {cfg : Config} (hcap : 7 ≤ cfg.C) : zeros cfg.C = encodeFrame cfg 0#21 [] := by
  have hsize : cfg.C = 7 + cfg.MP := (Nat.add_sub_of_le hcap).symm
  rw [encodeFrame_eq, hsize, zeros, List.replicate_add]
  rfl

/-- Settles O29: it is the frame encoded from the number 0 and no payload, so `decode` gives both back. -/
theorem allZeroFrameIsWellFormed : Obligations.AllZeroFrameIsWellFormed := by
  intro cfg hlegal
  obtain ⟨hmin, hmax, _⟩ := (Config.legal_iff cfg).1 hlegal
  have hencoded := zeros_eq_encodeFrame (Nat.le_of_succ_le hmin)
  have hdecoded : decodeFrame cfg (zeros cfg.C) = .ok 0#21 [] := by
    rw [hencoded]
    exact decodeFrame_encodeFrame hmax _ (Nat.zero_le _)
  exact ⟨hencoded, (decodeAcceptsExactlyWellFormedFrames _ _ _ _).1 hdecoded, hdecoded⟩

end Sys2Proof.Machine
end

section
/-! PROOFS. What an operation answers on the response port and on DOUT (30_encoding.md R83 to R85). -/

namespace Sys2Proof.Machine

/-- Everything an operation can answer: status, cause and `seq` of the response word, and DOUT (R83, R84). -/
inductive AnswerOf (s : State) (i : Instr) : Status → Option Cause → SeqNum → Bytes → Prop
  /-- The frame encoded by ENC. -/
  | encoded {q : SeqNum} (hi : i = .enc q) : AnswerOf s i .ok none 0#21 (encodeFrame s.cfg q s.din)
  /-- The sequence number and payload decoded by DEC. -/
  | decoded {q : SeqNum} {p : Bytes} (hi : i = .dec) (hd : decodeFrame s.cfg s.din = .ok q p) :
    AnswerOf s i .ok none q p
  /-- The sequence number of the frame that S_ACK or R_FRAME has taken. -/
  | taken {q : SeqNum} {p : Bytes} (hi : i = .sAck ∨ i = .rFrame) (hd : decodeFrame s.cfg s.din = .ok q p) :
    AnswerOf s i .ok none q []
  /-- The sequence number of the frame that R_FRAME has dropped. -/
  | dropped {q : SeqNum} {p : Bytes} (hi : i = .rFrame) (hd : decodeFrame s.cfg s.din = .ok q p) :
    AnswerOf s i .outOfOrder none q []
  /-- OK from an operation of SND or RCV that takes no frame. -/
  | done (hframe : i.dinKind ≠ .frame) (hcodec : i.hwUnit ≠ .codec) : AnswerOf s i .ok none 0#21 []
  /-- A corrupt frame, with its cause. -/
  | corrupt (c : Cause) : AnswerOf s i .corrupt (some c) 0#21 []
  /-- A refusal, which says nothing of a frame. -/
  | refused {st : Status} (hst : st = .notOpen ∨ st = .contract ∨ st = .allocFail ∨ st = .aborted) :
    AnswerOf s i st none 0#21 []

/-- The state shows one of the answers of the operation. -/
def State.ShowsAnswer (s : State) (i : Instr) (t : State) : Prop :=
  ∃ st c q, AnswerOf s i st c q t.dout ∧ t.rsp = responseWord st c q

theorem State.turnedAway.showsAnswer {s t : State} {i : Instr} (h : s.turnedAway i t) : s.ShowsAnswer i t := by
  rcases h with ⟨_, rfl⟩ | ⟨_, _, rfl⟩
  · exact ⟨.aborted, _, _, .refused (by decide), rfl⟩
  · exact ⟨.notOpen, _, _, .refused (by decide), rfl⟩

theorem exec_showsAnswer {i : Instr} {s t : State} (h : exec i s = .next t) : s.ShowsAnswer i t := by
  cases i with
  | enc q =>
    rcases execEnc_next h with haway | ⟨_, ⟨_, rfl⟩ | ⟨_, rfl⟩⟩
    · exact haway.showsAnswer
    · exact ⟨.contract, _, _, .refused (by decide), rfl⟩
    · exact ⟨_, _, _, .encoded rfl, rfl⟩
  | dec =>
    rcases (execDec_next h).2 with haway | ⟨_, ⟨q, _, hd, rfl⟩ | ⟨c, _, rfl⟩⟩
    · exact haway.showsAnswer
    · exact ⟨_, _, _, .decoded rfl hd, (responseWord_ok q).symm⟩
    · exact ⟨_, _, _, .corrupt c, (responseWord_corrupt c).symm⟩
  | sInit =>
    rcases execSInit_next h with haway | ⟨_, rfl⟩
    · exact haway.showsAnswer
    · exact ⟨_, _, _, .done nofun nofun, rfl⟩
  | sFinal =>
    rcases execSFinal_next h with haway | ⟨_, rfl⟩
    · exact haway.showsAnswer
    · exact ⟨_, _, _, .done nofun nofun, rfl⟩
  | sSubmit =>
    rcases execSSubmit_next h with haway | ⟨_, ⟨_, rfl⟩ | ⟨_, _, rfl⟩⟩
    · exact haway.showsAnswer
    · exact ⟨.allocFail, _, _, .refused (by decide), rfl⟩
    · exact ⟨_, _, _, .done nofun nofun, rfl⟩
  | sAck =>
    rcases (execSAck_next h).2 with haway | ⟨_, ⟨c, _, rfl⟩ | ⟨q, _, hd, _, rfl⟩⟩
    · exact haway.showsAnswer
    · exact ⟨_, _, _, .corrupt c, (responseWord_corrupt c).symm⟩
    · exact ⟨_, _, _, .taken (.inl rfl) hd, (responseWord_ok q).symm⟩
  | sTmo =>
    rcases execSTmo_next h with haway | ⟨_, _, rfl⟩
    · exact haway.showsAnswer
    · exact ⟨_, _, _, .done nofun nofun, rfl⟩
  | rInit =>
    rcases execRInit_next h with haway | ⟨_, rfl⟩
    · exact haway.showsAnswer
    · exact ⟨_, _, _, .done nofun nofun, rfl⟩
  | rFinal =>
    rcases execRFinal_next h with haway | ⟨_, rfl⟩
    · exact haway.showsAnswer
    · exact ⟨_, _, _, .done nofun nofun, rfl⟩
  | rFrame =>
    rcases (execRFrame_next h).2 with haway | ⟨_, ⟨c, _, rfl⟩ | ⟨q, _, hd, _, rfl⟩ | ⟨q, _, hd, _, rfl⟩⟩
    · exact haway.showsAnswer
    · exact ⟨_, _, _, .corrupt c, (responseWord_corrupt c).symm⟩
    · exact ⟨_, _, _, .taken (.inr rfl) hd, (responseWord_ok q).symm⟩
    · exact ⟨_, _, _, .dropped rfl hd, (responseWord_outOfOrder q).symm⟩

/-- The fields of the last response, read from what its word was made of (R83). -/
theorem State.rspFields_eq {t : State} {st : Status} {c : Option Cause} {q : SeqNum}
    (h : t.rsp = responseWord st c q) :
    t.rspZero = 0#5 ∧ t.statusField = st.code ∧ t.causeOf = causeField c ∧ t.rspSeq = q := by
  obtain ⟨hst, hcause, hzero, hseq⟩ := responseWord_fields st c q
  rw [← h] at hst hcause hzero hseq
  exact ⟨hzero, hst, hcause, hseq⟩

/-- Settles O14: what was answered fixes the fields of the response word and DOUT, and each clause is read off it. -/
theorem responseWordHasTheFormatRsp : Obligations.ResponseWordHasTheFormatRsp := by
  intro i s t h
  obtain ⟨st, c, q, hanswer, hrsp⟩ := exec_showsAnswer h
  obtain ⟨hzero, hst, hcause, hseq⟩ := State.rspFields_eq hrsp
  rw [hzero, hst, hcause, hseq]
  generalize t.dout = dout at hanswer ⊢
  cases hanswer with
  | encoded hi => simp [hi, Status.code, causeField, Instr.dinKind, Instr.hwUnit]
  | decoded hi hd => simp [hi, hd, Status.code, causeField, Instr.dinKind, Instr.hwUnit]
  | taken hi hd =>
    rcases hi with rfl | rfl
    · simp [hd, Status.code, causeField, Instr.dinKind]
    · simp [hd, Status.code, causeField, Instr.dinKind]
  | dropped hi hd => simp [hi, hd, Status.code, causeField, Instr.dinKind]
  | done hframe hcodec =>
    have henc : ∀ q, i ≠ .enc q := fun q hi => hcodec (hi ▸ rfl)
    have hdec : i ≠ .dec := fun hi => hcodec (hi ▸ rfl)
    simp [hframe, henc, hdec, Status.code, causeField]
  | corrupt c =>
    have hcode : causeField (some c) ≠ 0#2 := by cases c <;> decide
    simp [hcode, Status.code]
  | refused hrefused =>
    have hcode : st.code.toNat ≤ 7 ∧ st.code ≠ 0x0#4 ∧ st.code ≠ 0x1#4 ∧ st.code ≠ 0x2#4 := by
      rcases hrefused with rfl | rfl | rfl | rfl <;> decide
    obtain ⟨hle, hok, hcorrupt, hdropped⟩ := hcode
    simp [hle, hok, hcorrupt, hdropped, causeField]

end Sys2Proof.Machine
end

section
/-! PROOFS. Which operation emits which event (30_encoding.md R86, 60_exceptions.md R210, R211). -/

namespace Sys2Proof.Machine

/-- The operations that send data frames: the ones that pump or resend, and so the ones that start the timer (R86). -/
def Transmits (i : Instr) : Prop := i = .sSubmit ∨ i = .sAck ∨ i = .sTmo

/-- The table of events, a constructor a row: the operations that may emit the event, and TMR_START's argument (R86). -/
inductive MayEmit (s : State) (i : Instr) : Event → Prop
  | sSend (f : Bytes) (hi : Transmits i) : MayEmit s i (.sSend f)
  | rSend (f : Bytes) (hi : i = .rFrame) : MayEmit s i (.rSend f)
  | rDeliver (p : Bytes) (hi : i = .rFrame) : MayEmit s i (.rDeliver p)
  | tmrStart (hi : Transmits i) : MayEmit s i (.tmrStart s.cfg.T)
  | tmrStop (hi : i = .sInit ∨ i = .sAck) : MayEmit s i .tmrStop

/-- Every event of the state `t` is one that the operation may emit in `s`. -/
def State.EmitsBy (s : State) (i : Instr) (t : State) : Prop := ∀ e ∈ t.events, MayEmit s i e

theorem mayEmit_of_mem_sends {s u : State} {i : Instr} (hi : Transmits i) {k n : Nat} {e : Event}
    (he : e ∈ u.sends k n) : MayEmit s i e := by
  obtain ⟨j, _, rfl⟩ := List.mem_map.1 he
  exact .sSend _ hi

/-- Pump adds TMR_START and S_SEND events only (R140, R141). -/
theorem emitsBy_pumpResult {s u : State} {i : Instr} (hi : Transmits i) (hcfg : u.cfg = s.cfg)
    (hu : s.EmitsBy i u) : s.EmitsBy i u.pumpResult := by
  intro e he
  simp only [State.pumpResult, List.mem_append] at he
  rcases he with he | he | he
  · exact hu e he
  · split at he
    · rw [List.mem_singleton.1 he, hcfg]
      exact .tmrStart hi
    · cases he
  · exact mayEmit_of_mem_sends hi he

/-- The timer action of S_ACK is one of the two timer events (R144). -/
theorem emitsBy_ackedBy (s : State) (q : SeqNum) : s.EmitsBy .sAck (s.ackedBy q) := by
  intro e he
  rw [State.ackedBy_eq] at he
  rw [List.mem_singleton.1 he]
  split
  · exact .tmrStop (.inr rfl)
  · exact .tmrStart (.inr (.inl rfl))

theorem emitsBy_of_events_nil {s t : State} {i : Instr} (h : t.events = []) : s.EmitsBy i t := by
  intro e he
  rw [h] at he
  cases he

theorem State.turnedAway.emitsBy {s t : State} {i : Instr} (h : s.turnedAway i t) : s.EmitsBy i t := by
  rcases h with ⟨_, rfl⟩ | ⟨_, _, rfl⟩ <;> exact emitsBy_of_events_nil rfl

/-- Every event of an operation is in its row of R86. -/
theorem exec_emitsBy {i : Instr} {s t : State} (h : exec i s = .next t) : s.EmitsBy i t := by
  cases i with
  | enc q =>
    rcases execEnc_next h with haway | ⟨_, ⟨_, rfl⟩ | ⟨_, rfl⟩⟩
    · exact haway.emitsBy
    · exact emitsBy_of_events_nil rfl
    · exact emitsBy_of_events_nil rfl
  | dec =>
    rcases (execDec_next h).2 with haway | ⟨_, ⟨_, _, _, rfl⟩ | ⟨_, _, rfl⟩⟩
    · exact haway.emitsBy
    · exact emitsBy_of_events_nil rfl
    · exact emitsBy_of_events_nil rfl
  | sInit =>
    rcases execSInit_next h with haway | ⟨_, rfl⟩
    · exact haway.emitsBy
    · intro e he
      rw [List.mem_singleton.1 he]
      exact .tmrStop (.inl rfl)
  | sFinal =>
    rcases execSFinal_next h with haway | ⟨_, rfl⟩
    · exact haway.emitsBy
    · exact emitsBy_of_events_nil rfl
  | sSubmit =>
    rcases execSSubmit_next h with haway | ⟨_, ⟨_, rfl⟩ | ⟨_, _, rfl⟩⟩
    · exact haway.emitsBy
    · exact emitsBy_of_events_nil rfl
    · exact emitsBy_pumpResult (u := s.submitted) (.inl rfl) rfl (emitsBy_of_events_nil rfl)
  | sAck =>
    rcases (execSAck_next h).2 with haway | ⟨_, ⟨_, _, rfl⟩ | ⟨q, _, _, _, rfl⟩⟩
    · exact haway.emitsBy
    · exact emitsBy_of_events_nil rfl
    · exact emitsBy_pumpResult (.inr (.inl rfl)) (by rw [State.ackedBy_eq]) (emitsBy_ackedBy s q)
  | sTmo =>
    rcases execSTmo_next h with haway | ⟨_, _, rfl⟩
    · exact haway.emitsBy
    · intro e he
      rcases List.mem_cons.1 he with rfl | he
      · exact .tmrStart (.inr (.inr rfl))
      · exact mayEmit_of_mem_sends (.inr (.inr rfl)) he
  | rInit =>
    rcases execRInit_next h with haway | ⟨_, rfl⟩
    · exact haway.emitsBy
    · exact emitsBy_of_events_nil rfl
  | rFinal =>
    rcases execRFinal_next h with haway | ⟨_, rfl⟩
    · exact haway.emitsBy
    · exact emitsBy_of_events_nil rfl
  | rFrame =>
    rcases (execRFrame_next h).2 with haway | ⟨_, ⟨_, _, rfl⟩ | ⟨_, p, _, _, rfl⟩ | ⟨_, _, _, _, rfl⟩⟩
    · exact haway.emitsBy
    · exact emitsBy_of_events_nil rfl
    · intro e he
      rcases List.mem_pair.1 he with rfl | rfl
      · exact .rDeliver p rfl
      · exact .rSend s.din rfl
    · exact emitsBy_of_events_nil rfl

/-- Settles O44: the code of an event says which row of R86 allowed it. -/
theorem eventsComeFromTheOperationsOfTheTable : Obligations.EventsComeFromTheOperationsOfTheTable := by
  refine ⟨fun i s t h e he => ?_, fun _ _ => ⟨rfl, rfl, rfl, rfl, rfl⟩⟩
  cases exec_emitsBy h e he with
  | sSend f hi => exact ⟨fun _ => hi, nofun, nofun, nofun, nofun⟩
  | rSend f hi => exact ⟨nofun, fun _ => hi, nofun, nofun, nofun⟩
  | rDeliver p hi => exact ⟨nofun, nofun, fun _ => hi, nofun, nofun⟩
  | tmrStart hi => exact ⟨nofun, nofun, nofun, fun _ => ⟨hi, rfl⟩, nofun⟩
  | tmrStop hi => exact ⟨nofun, nofun, nofun, nofun, fun _ => ⟨hi, rfl⟩⟩

end Sys2Proof.Machine
end

section
/-! PROOFS. Program lines as commands (30_encoding.md R88 to R90): the frame a frame operand names, the command each
line stands for, and that it can be presented. -/

namespace Sys2Proof.Machine

/-! ### Frame operands (R88) -/

theorem resolve_literal_iff (cfg : Config) (trace : List Event) (b f : Bytes) :
    (FrameOperand.literal b).resolve cfg trace = .ok f ↔ b.length = cfg.C ∧ f = b := by
  by_cases hlen : b.length = cfg.C <;> simp [FrameOperand.resolve, hlen, eq_comm]

theorem resolve_enc_iff (cfg : Config) (trace : List Event) (q : SeqNum) (p f : Bytes) :
    (FrameOperand.enc q p).resolve cfg trace = .ok f ↔ p.length ≤ cfg.MP ∧ f = encodeFrame cfg q p := by
  by_cases hlen : p.length ≤ cfg.MP <;> simp [FrameOperand.resolve, hlen, eq_comm]

theorem carries_iff (cfg : Config) (q : SeqNum) (f : Bytes) :
    carries cfg q.toNat f = true ↔ ∃ p, decodeFrame cfg f = .ok q p := by
  unfold carries
  cases decodeFrame cfg f with
  | ok q' p => simp [BitVec.toNat_inj]
  | corrupt c => simp

/-- The latest frame is one of the frames. -/
theorem mem_of_latestFrame {cfg : Config} {n : Nat} {frames : List Bytes} {f : Bytes}
    (h : latestFrame cfg n frames = .ok f) : f ∈ frames := by
  unfold latestFrame at h
  split at h
  · next hfind =>
    cases h
    exact List.mem_reverse.1 (List.mem_of_find?_eq_some hfind)
  · cases h

/-- A frame that decodes to a number is the latest for it if no later frame decodes to it. -/
theorem latestFrame_append {cfg : Config} {q : SeqNum} {p f : Bytes} (hf : decodeFrame cfg f = .ok q p)
    (earlier : List Bytes) {later : List Bytes} (hlater : ∀ g ∈ later, ∀ p', decodeFrame cfg g ≠ .ok q p') :
    latestFrame cfg q.toNat (earlier ++ f :: later) = .ok f := by
  have hnone : later.reverse.find? (carries cfg q.toNat) = none := by
    refine List.find?_eq_none.2 fun g hg hcarries => ?_
    obtain ⟨p', hp'⟩ := (carries_iff cfg q g).1 hcarries
    exact hlater g (List.mem_reverse.1 hg) p' hp'
  have hself : carries cfg q.toNat f = true := (carries_iff cfg q f).2 ⟨p, hf⟩
  simp [latestFrame, List.find?_append, hnone, hself]

theorem mem_sentFrames_iff (trace : List Event) (f : Bytes) :
    f ∈ trace.filterMap sentFrame ↔ Event.sSend f ∈ trace := by
  rw [List.mem_filterMap]
  constructor
  · rintro ⟨e, he, hsent⟩
    cases e <;> cases hsent
    exact he
  · exact fun he => ⟨_, he, rfl⟩

theorem mem_ackedFrames_iff (trace : List Event) (f : Bytes) :
    f ∈ trace.filterMap ackedFrame ↔ Event.rSend f ∈ trace := by
  rw [List.mem_filterMap]
  constructor
  · rintro ⟨e, he, hacked⟩
    cases e <;> cases hacked
    exact he
  · exact fun he => ⟨_, he, rfl⟩

theorem resolve_sent_latest {cfg : Config} {earlier later : List Event} {f p : Bytes} {q : SeqNum}
    (hf : decodeFrame cfg f = .ok q p)
    (hlater : ∀ g, Event.sSend g ∈ later → ∀ p', decodeFrame cfg g ≠ .ok q p') :
    (FrameOperand.sent q.toNat).resolve cfg (earlier ++ .sSend f :: later) = .ok f := by
  simp only [FrameOperand.resolve, List.filterMap_append, List.filterMap_cons, sentFrame]
  exact latestFrame_append hf _ fun g hg => hlater g ((mem_sentFrames_iff later g).1 hg)

theorem resolve_acked_latest {cfg : Config} {earlier later : List Event} {f p : Bytes} {q : SeqNum}
    (hf : decodeFrame cfg f = .ok q p)
    (hlater : ∀ g, Event.rSend g ∈ later → ∀ p', decodeFrame cfg g ≠ .ok q p') :
    (FrameOperand.acked q.toNat).resolve cfg (earlier ++ .rSend f :: later) = .ok f := by
  simp only [FrameOperand.resolve, List.filterMap_append, List.filterMap_cons, ackedFrame]
  exact latestFrame_append hf _ fun g hg => hlater g ((mem_ackedFrames_iff later g).1 hg)

/-- A frame operand names a frame of C bytes, if those of the trace are. -/
theorem resolve_length {cfg : Config} {trace : List Event} (hcap : 7 ≤ cfg.C)
    (htrace : ∀ f, (Event.sSend f ∈ trace ∨ Event.rSend f ∈ trace) → f.length = cfg.C)
    {operand : FrameOperand} {f : Bytes} (h : operand.resolve cfg trace = .ok f) : f.length = cfg.C := by
  cases operand with
  | literal b =>
    obtain ⟨hlen, rfl⟩ := (resolve_literal_iff cfg trace b f).1 h
    exact hlen
  | enc q p =>
    obtain ⟨hlen, rfl⟩ := (resolve_enc_iff cfg trace q p f).1 h
    exact encodeFrame_length q hcap hlen
  | sent n => exact htrace f (.inl ((mem_sentFrames_iff trace f).1 (mem_of_latestFrame h)))
  | acked n => exact htrace f (.inr ((mem_ackedFrames_iff trace f).1 (mem_of_latestFrame h)))

/-! ### The command of a line (R88 to R90) -/

theorem ok_command_iff (w : Word) (d : Bytes) (c : Command) :
    (Except.ok (some ⟨w, d⟩) : Except AsmError (Option Command)) = .ok (some c) ↔ c.word = w ∧ c.din = d := by
  obtain ⟨w', d'⟩ := c
  simp [eq_comm]

theorem frameCommand_ok_iff (cfg : Config) (trace : List Event) (i : Instr) (f : FrameOperand) (c : Command) :
    frameCommand cfg trace i f = .ok (some c) ↔ c.word = encode i ∧ f.resolve cfg trace = .ok c.din := by
  unfold frameCommand
  cases f.resolve cfg trace with
  | ok b => rw [ok_command_iff, Except.ok.injEq, eq_comm (a := b)]
  | error e => simp

/-- ENC's word is its `op` code beside its `seq` (R90). -/
theorem encode_enc_eq (q : SeqNum) : encode (.enc q) = 0x10000000#32 ||| q.setWidth 32 := by
  apply BitVec.eq_of_getLsbD_eq
  intro i hi
  simp only [encode, Instr.opCode, Instr.seqOperand, BitVec.getLsbD_append, BitVec.getLsbD_or, BitVec.getLsbD_setWidth]
  interval_cases i <;> simp

/-- The frame that a frame operand names can be presented to an operation that takes one (R79). -/
theorem frameCommand_wellFormed {cfg : Config} {trace : List Event} (hcap : 7 ≤ cfg.C)
    (htrace : ∀ f, (Event.sSend f ∈ trace ∨ Event.rSend f ∈ trace) → f.length = cfg.C)
    {i : Instr} {f : FrameOperand} {c : Command} (hkind : i.dinKind = .frame)
    (h : frameCommand cfg trace i f = .ok (some c)) : ∃ i, encode i = c.word ∧ i.wellFormed cfg c.din = true := by
  obtain ⟨hword, hresolve⟩ := (frameCommand_ok_iff cfg trace i f c).1 h
  refine ⟨i, hword.symm, ?_⟩
  rw [Instr.wellFormed, hkind]
  exact beq_iff_eq.2 (resolve_length hcap htrace hresolve)

/-- Everything a line can stand for: an operation's word with a DIN of the type the operation takes (R79). -/
theorem Line.command_wellFormed {cfg : Config} {trace : List Event} (hcap : 7 ≤ cfg.C)
    (htrace : ∀ f, (Event.sSend f ∈ trace ∨ Event.rSend f ∈ trace) → f.length = cfg.C)
    {l : Line} {c : Command} (h : l.command cfg trace = .ok (some c)) :
    ∃ i, encode i = c.word ∧ i.wellFormed cfg c.din = true := by
  cases l with
  | comment => cases h
  | enc | encAck | sInit | sFinal | sSubmit | sTmo | rInit | rFinal => cases h; exact ⟨_, rfl, rfl⟩
  | dec | sAck | rFrame => exact frameCommand_wellFormed hcap htrace rfl h

/-- Settles O57: the form of each line and operand by its own lemma, legality by `decode_encode`. -/
theorem programLinesAreCommands : Obligations.ProgramLinesAreCommands := by
  refine ⟨fun cfg trace c => ?_, fun cfg trace l c hlegal htrace h => ?_, fun cfg trace q => ?_,
    fun cfg trace b f q => ⟨resolve_literal_iff cfg trace b f, resolve_enc_iff cfg trace q b f⟩,
    fun cfg earlier later f p q hf => ⟨resolve_sent_latest hf, resolve_acked_latest hf⟩⟩
  · exact ⟨nofun, fun _ _ => ok_command_iff _ _ c, fun _ => ok_command_iff _ _ c,
      fun f => frameCommand_ok_iff cfg trace .dec f c, ok_command_iff _ _ c, ok_command_iff _ _ c,
      fun _ => ok_command_iff _ _ c, fun f => frameCommand_ok_iff cfg trace .sAck f c, ok_command_iff _ _ c,
      ok_command_iff _ _ c, ok_command_iff _ _ c, fun f => frameCommand_ok_iff cfg trace .rFrame f c⟩
  · have hcap := ((Config.legal_iff cfg).1 hlegal).1
    obtain ⟨i, hword, hwf⟩ := Line.command_wellFormed (Nat.le_of_succ_le hcap) htrace h
    exact ⟨i, hword ▸ decode_encode i, hword, hwf⟩
  · exact ⟨rfl, encode_enc_eq q ▸ rfl⟩

end Sys2Proof.Machine
end

section
/-! PROOFS. The CODEC unit (40_codec.md R105 to R116): the layout of an encoded frame, the order in which `decode` finds
defects, which corruptions its checksum sees, and what ENC and DEC answer. -/

namespace Sys2Proof.Machine

/-! ### An encoded frame byte by byte, and back (R105, R114) -/

/-- The model's recursion adds up the byte values (R103). -/
theorem byteSum_eq_sum (p : Bytes) : byteSum p = (p.map BitVec.toNat).sum := by
  induction p with
  | nil => rfl
  | cons b p ih => rw [byteSum_cons, ih, List.map_cons, List.sum_cons]

/-- The bytes at offsets 4 to 6 are the digits of the checksum (R73, R105). -/
theorem cksumDigits_encodeFrame (cfg : Config) (q : SeqNum) (p : Bytes) :
    (byteAt (encodeFrame cfg q p) 4).toNat = cksum q p / 100 ∧
    (byteAt (encodeFrame cfg q p) 5).toNat = cksum q p / 10 % 10 ∧
    (byteAt (encodeFrame cfg q p) 6).toNat = cksum q p % 10 := by
  have hdigits := digits10_toNat (cksum_lt q p)
  simp only [digits10, List.map_cons, List.map_nil, List.cons.injEq, and_true] at hdigits
  rw [encodeFrame_eq]
  exact hdigits

/-- Every byte after the payload is 0 (R74, R105). -/
theorem padding_encodeFrame (cfg : Config) (q : SeqNum) (p : Bytes) {j : Nat} (hstart : 7 + p.length ≤ j)
    (hend : j < cfg.C) : (encodeFrame cfg q p)[j]? = some 0#8 := by
  obtain ⟨k, rfl⟩ := Nat.exists_eq_add_of_le hstart
  have hk : k < cfg.MP - p.length := by
    simp only [Config.MP, headerSize]
    omega
  rw [encodeFrame_eq, show 7 + p.length + k = p.length + k + 7 by omega]
  simp [zeros, hk]

/-- Settles O24, field by field. -/
theorem encodedFrameHasTheWireLayout : Obligations.EncodedFrameHasTheWireLayout := by
  intro cfg q p hlegal hp
  obtain ⟨hmin, hcap, _⟩ := (Config.legal_iff cfg).1 hlegal
  have hlength := lengthByte_encodeFrame hcap q hp
  have hpayload := decodedPayload_encodeFrame hcap q hp
  obtain ⟨h1, h2, h3⟩ := seqDigits_encodeFrame cfg q p
  obtain ⟨h4, h5, h6⟩ := cksumDigits_encodeFrame cfg q p
  rw [cksum, byteSum_eq_sum] at h4 h5 h6
  rw [decodedPayload, hlength] at hpayload
  exact ⟨encodeFrame_length q (Nat.le_of_succ_le hmin) hp, hlength, h1, h2, h3, h4, h5, h6, hpayload,
    fun j => padding_encodeFrame cfg q p⟩

/-- Settles O25: of legality only `C ≤ 262` is used, so that the length byte holds the payload's length. -/
theorem decodeOfEncodeReturnsTheOperands : Obligations.DecodeOfEncodeReturnsTheOperands := by
  intro cfg q p hlegal hp
  obtain ⟨_, hcap, _⟩ := (Config.legal_iff cfg).1 hlegal
  exact decodeFrame_encodeFrame hcap q hp

/-! ### The order of the defects (R109, R111) -/

section Defects

variable {cfg : Config} {f : Bytes}

theorem decodeFrame_of_long (hlen : cfg.MP < (byteAt f 0).toNat) : decodeFrame cfg f = .corrupt .lenRange :=
  if_pos hlen

theorem decodeFrame_of_badDigit (hlen : (byteAt f 0).toNat ≤ cfg.MP)
    (hdigit : 127 < (byteAt f 1).toNat ∨ 127 < (byteAt f 2).toNat ∨ 127 < (byteAt f 3).toNat) :
    decodeFrame cfg f = .corrupt .seqDigit := by
  rw [decodeFrame, if_neg (Nat.not_lt.2 hlen), if_pos hdigit]

/-- Past the first two checks the checksum bytes alone decide (R109 step 4). -/
theorem decodeFrame_of_digits (hlen : (byteAt f 0).toNat ≤ cfg.MP)
    (hdigits : (byteAt f 1).toNat ≤ 127 ∧ (byteAt f 2).toNat ≤ 127 ∧ (byteAt f 3).toNat ≤ 127) :
    decodeFrame cfg f =
      if [byteAt f 4, byteAt f 5, byteAt f 6] = digits10 (cksum (decodedSeq f) (decodedPayload f)) then
        .ok (decodedSeq f) (decodedPayload f)
      else .corrupt .cksum := by
  rw [decodeFrame, if_neg (Nat.not_lt.2 hlen), if_neg (by omega)]

/-- The three digits and the payload bytes name one sequence number and one payload, those that are decoded. -/
theorem forall_named_iff
    (hdigits : (byteAt f 1).toNat ≤ 127 ∧ (byteAt f 2).toNat ≤ 127 ∧ (byteAt f 3).toNat ≤ 127)
    (P : SeqNum → Bytes → Prop) :
    (∀ q p, q.toNat = (byteAt f 1).toNat * 16384 + (byteAt f 2).toNat * 128 + (byteAt f 3).toNat →
      p = (f.drop 7).take (byteAt f 0).toNat → P q p) ↔ P (decodedSeq f) (decodedPayload f) := by
  obtain ⟨h1, h2, h3⟩ := hdigits
  simp only [← eq_decodedSeq_iff h1 h2 h3]
  exact ⟨fun h => h _ _ rfl rfl, fun h q p hq hp => hq ▸ hp ▸ h⟩

end Defects

/-- Settles O23, by the first of the three checks that fails, if one does. -/
theorem decodeReportsTheFirstDefect : Obligations.DecodeReportsTheFirstDefect := by
  intro cfg f
  by_cases hlen : cfg.MP < (byteAt f 0).toNat
  · simp [decodeFrame_of_long hlen, hlen, Nat.not_le.2 hlen]
  replace hlen := Nat.le_of_not_lt hlen
  by_cases hdigit : 127 < (byteAt f 1).toNat ∨ 127 < (byteAt f 2).toNat ∨ 127 < (byteAt f 3).toNat
  · have hbad : ¬ ((byteAt f 1).toNat ≤ 127 ∧ (byteAt f 2).toNat ≤ 127 ∧ (byteAt f 3).toNat ≤ 127) := by omega
    simp [decodeFrame_of_badDigit hlen hdigit, hlen, hdigit, hbad]
  have hdigits : (byteAt f 1).toNat ≤ 127 ∧ (byteAt f 2).toNat ≤ 127 ∧ (byteAt f 3).toNat ≤ 127 := by omega
  rw [forall_named_iff hdigits fun q p => [byteAt f 4, byteAt f 5, byteAt f 6] ≠ digits10 (cksum q p),
    decodeFrame_of_digits hlen hdigits]
  by_cases hsum : [byteAt f 4, byteAt f 5, byteAt f 6] = digits10 (cksum (decodedSeq f) (decodedPayload f))
  · simp [hsum, hlen, hdigit]
  · simp [hsum, hlen, hdigit, hdigits]

/-! ### One byte written into a frame -/

theorem byteAt_eq_getElem {f : Bytes} {i : Nat} (hi : i < f.length) : byteAt f i = f[i] := by
  simp [byteAt, hi]

theorem byteAt_set_self {f : Bytes} {i : Nat} (hi : i < f.length) (b : Byte) : byteAt (f.set i b) i = b := by
  simp [byteAt, hi]

theorem byteAt_set_ne {i j : Nat} (hij : i ≠ j) (f : Bytes) (b : Byte) : byteAt (f.set i b) j = byteAt f j := by
  simp [byteAt, hij]

/-- Of the header the payload depends on the length byte only. -/
theorem decodedPayload_set_header {i : Nat} (hi : i ≠ 0) (hi7 : i < 7) (f : Bytes) (b : Byte) :
    decodedPayload (f.set i b) = decodedPayload f := by
  rw [decodedPayload, byteAt_set_ne hi, List.drop_set_of_lt hi7, decodedPayload]

/-- Byte k of the payload stands at offset 7 + k. -/
theorem decodedPayload_set_payload (f : Bytes) (k : Nat) (b : Byte) :
    decodedPayload (f.set (7 + k) b) = (decodedPayload f).set k b := by
  rw [decodedPayload, byteAt_set_ne (by omega), headerSize, ← List.set_drop, List.take_set, decodedPayload]

theorem byteAt_decodedPayload {f : Bytes} {k : Nat} (hk : k < (decodedPayload f).length) :
    byteAt (decodedPayload f) k = byteAt f (7 + k) := by
  obtain ⟨hlen, hrest⟩ : k < (byteAt f 0).toNat ∧ k < f.length - 7 := by simpa [decodedPayload] using hk
  rw [byteAt_eq_getElem hk, byteAt_eq_getElem (by omega)]
  simp [decodedPayload]

/-- A frame has room for the payload that its length byte announces (R9, R70). -/
theorem decodedPayload_length {cfg : Config} {f : Bytes} (hframe : f.length = cfg.C)
    (hlen : (byteAt f 0).toNat ≤ cfg.MP) : (decodedPayload f).length = (byteAt f 0).toNat := by
  rw [decodedPayload, List.length_take, List.length_drop, hframe]
  exact Nat.min_eq_left hlen

/-! ### What the checksum sees (R103, R104, R115, R116) -/

/-- The byte sum does not see the order of the bytes (R116). -/
theorem byteSum_perm {p p' : Bytes} (h : p.Perm p') : byteSum p = byteSum p' := by
  rw [byteSum_eq_sum, byteSum_eq_sum]
  exact (h.map _).sum_eq

/-- Writing one byte moves the byte sum by the difference of the two values. -/
theorem byteSum_set {p : Bytes} {k : Nat} (hk : k < p.length) (b : Byte) :
    (byteAt p k).toNat + byteSum (p.set k b) = b.toNat + byteSum p := by
  have hsum := byteSum_perm (List.getD_set_perm_cons p k b)
  rwa [List.getElem?_eq_getElem hk, Option.getD_some, ← byteAt_eq_getElem hk, byteSum_cons, byteSum_cons] at hsum

/-- Two byte values differ by less than 1000, so changing one byte changes the checksum (R115 (a)). -/
theorem cksum_set_ne (q : SeqNum) {p : Bytes} {k : Nat} {b : Byte} (hk : k < p.length)
    (hb : b ≠ byteAt p k) : cksum q (p.set k b) ≠ cksum q p := by
  have hvalue : b.toNat ≠ (byteAt p k).toNat := fun h => hb (BitVec.eq_of_toNat_eq h)
  have hsum := byteSum_set hk b
  have hnew := b.isLt
  have hold := (byteAt p k).isLt
  simp only [cksum]
  omega

theorem byteSum_swap {p : Bytes} {i j : Nat} (hi : i < p.length) (hj : j < p.length) :
    byteSum ((p.set i (byteAt p j)).set j (byteAt p i)) = byteSum p := by
  rw [byteAt_eq_getElem hi, byteAt_eq_getElem hj]
  exact byteSum_perm (List.set_set_perm hi hj)

/-- A frame with the length byte and the digits of a well-formed one passes or fails by its checksum alone. -/
theorem decodeFrame_of_agree {cfg : Config} {f g : Bytes} {q : SeqNum} {p : Bytes} (hok : decodeFrame cfg f = .ok q p)
    (hagree : ∀ k < 4, byteAt g k = byteAt f k) : decodeFrame cfg g =
      if [byteAt g 4, byteAt g 5, byteAt g 6] = digits10 (cksum q (decodedPayload g)) then .ok q (decodedPayload g)
      else .corrupt .cksum := by
  obtain ⟨hlen, hdigits, rfl, _⟩ := (decodeFrame_ok_iff _ _ _ _).1 hok
  have h0 := hagree 0 (by decide)
  have h1 := hagree 1 (by decide)
  have h2 := hagree 2 (by decide)
  have h3 := hagree 3 (by decide)
  have hseq : decodedSeq g = decodedSeq f := by rw [decodedSeq, h1, h2, h3, decodedSeq]
  rw [← h0] at hlen
  rw [← h1, ← h2, ← h3] at hdigits
  rw [decodeFrame_of_digits hlen hdigits, hseq]

section SingleByte

variable {cfg : Config} {f : Bytes} {q : SeqNum} {p : Bytes} {i : Nat} {b : Byte}

/-- A changed checksum byte no longer fits the payload (R115 (b)). -/
theorem decodeFrame_set_cksum (hok : decodeFrame cfg f = .ok q p) (hi : i = 4 ∨ i = 5 ∨ i = 6) (hif : i < f.length)
    (hb : b ≠ byteAt f i) : decodeFrame cfg (f.set i b) = .corrupt .cksum := by
  obtain ⟨_, _, rfl, _, hsum⟩ := (decodeFrame_ok_iff _ _ _ _).1 hok
  rw [decodeFrame_of_agree hok fun k hk => byteAt_set_ne (by omega) f b,
    decodedPayload_set_header (by omega) (by omega), ← hsum, if_neg]
  intro hsame
  simp only [List.cons.injEq, and_true] at hsame
  obtain ⟨h4, h5, h6⟩ := hsame
  have hunchanged : byteAt (f.set i b) i = byteAt f i := by
    rcases hi with rfl | rfl | rfl
    · exact h4
    · exact h5
    · exact h6
  exact hb ((byteAt_set_self hif b).symm.trans hunchanged)

/-- A changed payload byte no longer fits the checksum bytes (R115 (a)). -/
theorem decodeFrame_set_payload {k : Nat} (hok : decodeFrame cfg f = .ok q p) (hk : k < p.length)
    (hb : b ≠ byteAt f (7 + k)) : decodeFrame cfg (f.set (7 + k) b) = .corrupt .cksum := by
  obtain ⟨_, _, rfl, rfl, hsum⟩ := (decodeFrame_ok_iff _ _ _ _).1 hok
  have hkeep : ∀ j < 7, byteAt (f.set (7 + k) b) j = byteAt f j := fun j hj => byteAt_set_ne (by omega) f b
  rw [decodeFrame_of_agree hok fun j hj => hkeep j (by omega), hkeep 4 (by decide), hkeep 5 (by decide),
    hkeep 6 (by decide), hsum, decodedPayload_set_payload, if_neg]
  intro hsame
  rw [← byteAt_decodedPayload hk] at hb
  exact cksum_set_ne _ hk hb (digits10_injective (cksum_lt _ _) (cksum_lt _ _) hsame).symm

end SingleByte

/-- Settles O26: the byte changed is one of the checksum or one of the payload; the second clause is O22. -/
theorem singleByteCorruptionIsDetected : Obligations.SingleByteCorruptionIsDetected := by
  refine ⟨fun cfg f q p i b hframe hok hmin hmax hi hb => ?_,
    fun cfg g q p => (decodeAcceptsExactlyWellFormedFrames cfg g q p).1⟩
  by_cases hpayload : 7 ≤ i
  · obtain ⟨k, rfl⟩ := Nat.exists_eq_add_of_le hpayload
    obtain ⟨hlen, _, _, rfl, _⟩ := (decodeFrame_ok_iff _ _ _ _).1 hok
    have hlength := decodedPayload_length hframe hlen
    exact decodeFrame_set_payload hok (by omega) hb
  · exact decodeFrame_set_cksum hok (by omega) (by omega) hb

/-- Settles O27: the swap keeps the header and the byte sum, so the checksum still fits. -/
theorem swappedPayloadBytesGoUndetected : Obligations.SwappedPayloadBytesGoUndetected := by
  intro cfg f q p i j _ hok hi hj
  obtain ⟨_, _, rfl, rfl, hsum⟩ := (decodeFrame_ok_iff _ _ _ _).1 hok
  rw [← byteAt_decodedPayload hi, ← byteAt_decodedPayload hj]
  generalize hp : decodedPayload f = p at *
  have hkeep : ∀ k < 7, byteAt ((f.set (7 + i) (byteAt p j)).set (7 + j) (byteAt p i)) k = byteAt f k := fun k hk => by
    rw [byteAt_set_ne (by omega), byteAt_set_ne (by omega)]
  rw [decodeFrame_of_agree hok fun k hk => hkeep k (by omega), hkeep 4 (by decide), hkeep 5 (by decide),
    hkeep 6 (by decide), hsum, decodedPayload_set_payload, decodedPayload_set_payload, hp, if_pos]
  rw [cksum, cksum, byteSum_swap hi hj]

/-! ### ENC and DEC (R106, R107, R112) -/

/-- An operation that its unit serves is turned away only by `abort` (R200). -/
theorem State.not_turnedAway {s t : State} {i : Instr} (habort : s.block.abort = false) (hserves : s.serves i = true) :
    ¬ s.turnedAway i t := by
  rintro (⟨haborted, _⟩ | ⟨_, hclosed, _⟩)
  · simp [habort] at haborted
  · simp [hserves] at hclosed

/-- ENC has one of two answers, whatever the modes: no mode turns it away (R106). -/
theorem execEnc_cases (q : SeqNum) {s : State} (habort : s.block.abort = false) :
    (s.cfg.MP < s.din.length ∧ exec (.enc q) s = .next (s.answered s.block 0x40000000#32 [] [])) ∨
    (s.din.length ≤ s.cfg.MP ∧
      exec (.enc q) s = .next (s.answered s.block 0x00000000#32 (encodeFrame s.cfg q s.din) [])) := by
  obtain ⟨t, ht⟩ := execEnc_answers q s
  rcases execEnc_next ht with haway | ⟨_, ⟨hlong, rfl⟩ | ⟨hfits, rfl⟩⟩
  · exact absurd haway (State.not_turnedAway habort rfl)
  · exact .inl ⟨hlong, ht⟩
  · exact .inr ⟨hfits, ht⟩

/-- Settles O18: the payload fits, so ENC's answer is the second one. -/
theorem encAnswersTheEncodedFrame : Obligations.EncAnswersTheEncodedFrame := fun q _ habort hfits =>
  (execEnc_cases q habort).elim (fun ⟨hlong, _⟩ => absurd hlong (Nat.not_lt.2 hfits)) And.right

/-- Settles O19: the payload does not fit, so ENC's answer is the first one. -/
theorem encOverlongPayloadAnswersContract : Obligations.EncOverlongPayloadAnswersContract := fun q _ habort hlong =>
  (execEnc_cases q habort).elim And.right fun ⟨hfits, _⟩ => absurd hlong (Nat.not_lt.2 hfits)

/-- Settles O20: no mode turns DEC away, and it answers what `decode` finds. -/
theorem decAnswersWhatDecodeFinds : Obligations.DecAnswersWhatDecodeFinds := by
  intro s habort hframe
  obtain ⟨t, ht⟩ := execDec_answers hframe
  rcases (execDec_next ht).2 with haway | ⟨_, ⟨q, p, hd, rfl⟩ | ⟨c, hd, rfl⟩⟩
  · exact absurd haway (State.not_turnedAway habort rfl)
  · refine ⟨fun q' p' hd' => ?_, fun c' hd' => ?_⟩
    · cases hd.symm.trans hd'
      exact ht
    · cases hd.symm.trans hd'
  · refine ⟨fun q' p' hd' => ?_, fun c' hd' => ?_⟩
    · cases hd.symm.trans hd'
    · cases hd.symm.trans hd'
      exact ht

end Sys2Proof.Machine
end

section
/-! PROOFS. The segmentation of a message (41_sender.md R134 to R136, R138) and the operations of the SND unit
(R132 to R153): what a served operation answers, and the window after it. -/

namespace Sys2Proof.Machine

/-! ### Segmentation (R134 to R136, R138) -/

/-- A frame has room for at least one byte of payload (R9). -/
theorem Config.MP_pos {cfg : Config} (hlegal : cfg.legal = true) : 0 < cfg.MP := by
  have hconstants := (Config.legal_iff cfg).1 hlegal
  simp only [Config.MP, headerSize]
  omega

/-- The first n payloads are the first n * MP bytes of the message. -/
theorem flatten_segments_take (cfg : Config) (m : Bytes) (n : Nat) :
    ((List.range n).map (segment cfg m)).flatten = m.take (n * cfg.MP) := by
  induction n with
  | zero => simp
  | succ n ih =>
    rw [List.range_succ, List.map_append, List.flatten_append, ih, Nat.succ_mul, List.take_add]
    simp [segment]

theorem segment_length (cfg : Config) (m : Bytes) (j : Nat) :
    (segment cfg m j).length = min cfg.MP (m.length - j * cfg.MP) := by
  simp [segment]

/-- The rounded-up quotient of R134, bounded on both sides. -/
theorem segmentCount_bounds {cfg : Config} (hmp : 0 < cfg.MP) (len : Nat) :
    len ≤ segmentCount cfg len * cfg.MP ∧ segmentCount cfg len * cfg.MP < len + cfg.MP := by
  have hquotient := Nat.div_mul_le_self (len + cfg.MP - 1) cfg.MP
  have hremainder := Nat.lt_div_mul_add (a := len + cfg.MP - 1) hmp
  rw [segmentCount]
  omega

theorem segmentCount_zero {cfg : Config} (hmp : 0 < cfg.MP) : segmentCount cfg 0 = 0 :=
  Nat.div_eq_of_lt (by omega)

/-- Settles O34: the payloads are consecutive pieces of MP bytes, and only the last piece reaches the end. -/
theorem segmentsAreMaximalAndMakeTheMessage : Obligations.SegmentsAreMaximalAndMakeTheMessage := by
  intro cfg m hlegal
  have hmp := Config.MP_pos hlegal
  obtain ⟨hcover, hmaximal⟩ := segmentCount_bounds hmp m.length
  refine ⟨segments_length cfg m, hcover, hmaximal, ?_, fun j hj => ?_, fun hpos => ?_⟩
  · exact (flatten_segments_take cfg m _).trans (List.take_of_length_le hcover)
  · have hfull := Nat.mul_le_mul_right cfg.MP hj
    rw [Nat.succ_mul, Nat.succ_mul] at hfull
    rw [segment_length]
    omega
  · have hlast : (segmentCount cfg m.length - 1) * cfg.MP + cfg.MP = segmentCount cfg m.length * cfg.MP := by
      rw [← Nat.succ_mul, Nat.succ_eq_add_one, Nat.sub_add_cancel hpos]
    rw [segment_length]
    omega

/-! ### An operation that is served (R131) -/

/-- A served operation is not turned away, so its body answers (R200). -/
theorem State.served.not_turnedAway {s t : State} {i : Instr} (h : s.served i) : ¬ s.turnedAway i t :=
  State.not_turnedAway h.1 h.2

/-- OPEN and DRAIN both serve these three operations (R131). -/
theorem State.served_of_running {s : State} {i : Instr} (habort : s.block.abort = false)
    (hmode : s.block.sMode = .opened ∨ s.block.sMode = .drain) (hi : i = .sFinal ∨ i = .sAck ∨ i = .sTmo) :
    s.served i := by
  refine ⟨habort, ?_⟩
  rcases hmode with hmode | hmode <;> rcases hi with rfl | rfl | rfl <;>
    simp [State.serves, senderServes, receiverServes, hmode]

/-- OPEN serves S_SUBMIT (R131). -/
theorem State.served_sSubmit {s : State} (habort : s.block.abort = false) (hmode : s.block.sMode = .opened) :
    s.served .sSubmit :=
  ⟨habort, by simp [State.serves, senderServes, receiverServes, hmode]⟩

/-- Settles O30: every mode serves S_INIT. -/
theorem sInitCreatesAnEmptyWindow : Obligations.SInitCreatesAnEmptyWindow := by
  intro s habort
  have hserves : s.serves .sInit = true := by
    rw [State.serves]
    cases s.block.sMode <;> rfl
  obtain ⟨t, ht⟩ := execSInit_answers s
  rcases execSInit_next ht with haway | ⟨_, rfl⟩
  · exact absurd haway (State.not_turnedAway habort hserves)
  · exact ht

/-- Settles O31: OPEN and DRAIN serve S_FINAL, DOWN turns it away. -/
theorem sFinalOnlyDrains : Obligations.SFinalOnlyDrains := by
  intro s habort
  obtain ⟨t, ht⟩ := execSFinal_answers s
  refine ⟨fun hmode => ?_, fun hdown => ?_⟩
  · rcases execSFinal_next ht with haway | ⟨_, rfl⟩
    · exact absurd haway (State.served_of_running habort hmode (.inl rfl)).not_turnedAway
    · exact ht
  · rcases execSFinal_next ht with (⟨haborted, _⟩ | ⟨_, _, rfl⟩) | ⟨hserved, _⟩
    · simp [habort] at haborted
    · exact ht
    · exact absurd hdown (hserved.running rfl)

/-! ### The window after pump (R36, R140, R141) -/

/-- Pump transmits exactly the frames by which it raises `next_seq_num`. -/
theorem State.ReadyToPump.admissible_eq {s : State} (h : s.ReadyToPump) :
    s.admissible = s.pumpResult.block.nextSeqNum.toNat - s.block.nextSeqNum.toNat := by
  rw [h.pumpResult_next, State.admissible]

/-- Pump starts the timer where it raises `next_seq_num` from an empty window (R141). -/
theorem State.ReadyToPump.startsWindow_eq {s : State} (h : s.ReadyToPump) :
    s.startsWindow = (decide (s.block.base = s.block.nextSeqNum) &&
      decide (s.block.nextSeqNum.toNat < s.pumpResult.block.nextSeqNum.toNat)) := by
  rw [State.startsWindow, h.admissible_eq, beq_eq_decide]
  simp only [Nat.sub_pos_iff_lt]

theorem State.ReadyToPump.pumpResult_tmrRun_eq {s : State} (h : s.ReadyToPump) :
    s.pumpResult.block.tmrRun = (s.block.tmrRun || (decide (s.block.base = s.block.nextSeqNum) &&
      decide (s.block.nextSeqNum.toNat < s.pumpResult.block.nextSeqNum.toNat))) := by
  rw [← h.startsWindow_eq]
  rfl

theorem State.ReadyToPump.pumpResult_events {s : State} (h : s.ReadyToPump) :
    s.pumpResult.events = s.events ++
      ((if s.block.base = s.block.nextSeqNum ∧ s.block.nextSeqNum.toNat < s.pumpResult.block.nextSeqNum.toNat then
          [.tmrStart s.cfg.T] else []) ++
        s.sends s.block.nextSeqNum.toNat (s.pumpResult.block.nextSeqNum.toNat - s.block.nextSeqNum.toNat)) := by
  rw [← h.admissible_eq]
  have hstarts : s.startsWindow = true ↔ s.block.base = s.block.nextSeqNum ∧
      s.block.nextSeqNum.toNat < s.pumpResult.block.nextSeqNum.toNat := by
    rw [h.startsWindow_eq, Bool.and_eq_true, decide_eq_true_iff, decide_eq_true_iff]
  simp only [← hstarts]
  rfl

/-- Where the window has no room or nothing is buffered, pump does nothing. -/
theorem State.pumpResult_of_admissible_zero {s : State} (h : s.admissible = 0) : s.pumpResult = s := by
  simp [State.pumpResult, State.startsWindow, h]

/-- Between operations everything admissible has been transmitted (R36). -/
theorem State.Inv.admissible_zero {s : State} (h : s.Inv) : s.admissible = 0 := by
  rw [State.admissible, ← h.pumped, Nat.sub_self]

/-! ### S_SUBMIT (R134 to R141) -/

/-- A served submission for which the store has room is stored whole, and then pump runs (R134). -/
theorem exec_sSubmit_of_room {s : State} (h : s.Inv) (hserved : s.served .sSubmit) (hroom : s.hasRoom) :
    exec .sSubmit s = .next (s.submitted.pumpResult.respond 0x00000000#32 []) := by
  obtain ⟨t, ht⟩ := execSSubmit_answers h
  rcases execSSubmit_next ht with haway | ⟨_, ⟨hfull, _⟩ | ⟨_, _, rfl⟩⟩
  · exact absurd haway hserved.not_turnedAway
  · exact absurd hroom (Nat.not_le.2 hfull)
  · exact ht

/-- A submission writes only bytes of the slots of its own frames (R52, R134). -/
theorem State.StoreOk.submitted_readByte_other {s : State} (h : s.StoreOk) {a : Nat}
    (ha : a < s.block.outLen.toNat * s.cfg.C ∨
      (s.block.outLen.toNat + segmentCount s.cfg s.din.length) * s.cfg.C ≤ a) :
    readByte s.submitted.block.out a = readByte s.block.out a := by
  have hlegal := (Config.legal_iff _).1 h.legal
  refine readByte_storedMem_other (by omega) _ _ _ (fun _ hp => segments_le hp) ?_
  rwa [segments_length]

/-- Settles O32: the frames stand in the store before pump runs, and pump leaves the store alone. -/
theorem submitStoresTheFramesAndPumps : Obligations.SubmitStoresTheFramesAndPumps := by
  intro s h habort hmode hroom
  have hserved := State.served_sSubmit habort hmode
  have hready := h.submitted_ready hroom (hserved.running rfl)
  refine ⟨_, exec_sSubmit_of_room h hserved hroom, h.storeOk.submitted_outLen hroom,
    fun j hj => h.storeOk.submitted_slot_new hj, fun a ha => h.storeOk.submitted_readByte_other ha,
    hready.pumpResult_next, hready.pumpResult_tmrRun_eq, rfl, ?_⟩
  exact congrArg (s.answered s.submitted.pumpResult.block 0x00000000#32 []) hready.pumpResult_events

/-- A submission of no byte stores nothing. -/
theorem State.submitted_of_empty {s : State} (hmp : 0 < s.cfg.MP) (hdin : s.din = []) :
    s.submitted = s.clearEvents := by
  have hnone : segmentCount s.cfg s.din.length = 0 := by rw [hdin]; exact segmentCount_zero hmp
  simp [State.submitted, State.clearEvents, segments, hnone, storedMem]

/-- Settles O35: nothing is stored, so nothing is left for pump to transmit. -/
theorem emptyMessageProducesNothing : Obligations.EmptyMessageProducesNothing := by
  intro s h habort hmode hdin
  have hmp := Config.MP_pos h.legal
  have hroom : s.hasRoom := by
    rw [State.hasRoom, hdin, List.length_nil, segmentCount_zero hmp]
    exact h.len_le_depth
  have hidle : s.clearEvents.admissible = 0 := h.admissible_zero
  rw [exec_sSubmit_of_room h (State.served_sSubmit habort hmode) hroom, State.submitted_of_empty hmp hdin,
    State.pumpResult_of_admissible_zero hidle]
  rfl

/-! ### S_ACK (R142 to R147) -/

/-- A served acknowledgment that decodes moves `base`, takes the timer action, and then pump runs (R143 to R145). -/
theorem exec_sAck_of_ok {s : State} {q : SeqNum} {p : Bytes} (h : s.Inv) (hserved : s.served .sAck)
    (hframe : s.din.length = s.cfg.C) (hd : decodeFrame s.cfg s.din = .ok q p) :
    exec .sAck s = .next ((s.ackedBy q).pumpResult.respond (q.setWidth 32) []) := by
  obtain ⟨t, ht⟩ := execSAck_answers h hframe
  rcases (execSAck_next ht).2 with haway | ⟨_, ⟨c, hcorrupt, _⟩ | ⟨q', p', hd', _, rfl⟩⟩
  · exact absurd haway hserved.not_turnedAway
  · cases hd.symm.trans hcorrupt
  · cases hd.symm.trans hd'
    exact ht

section AckedBy

variable (s : State) (q : SeqNum)

@[simp] theorem State.ackedBy_cfg : (s.ackedBy q).cfg = s.cfg := by rw [State.ackedBy_eq]

@[simp] theorem State.ackedBy_base :
    (s.ackedBy q).block.base = ackedBase s.block.base s.block.nextSeqNum q := by rw [State.ackedBy_eq]

@[simp] theorem State.ackedBy_nextSeqNum : (s.ackedBy q).block.nextSeqNum = s.block.nextSeqNum := by
  rw [State.ackedBy_eq]

@[simp] theorem State.ackedBy_outLen : (s.ackedBy q).block.outLen = s.block.outLen := by rw [State.ackedBy_eq]

@[simp] theorem State.ackedBy_sends (i n : Nat) : (s.ackedBy q).sends i n = s.sends i n := by
  rw [State.ackedBy_eq]
  exact State.sends_congr rfl rfl i n

/-- The timer runs unless the window has drained (R144). -/
theorem State.ackedBy_runs : (s.ackedBy q).block.tmrRun = decide ((s.ackedBy q).block.base ≠ s.block.nextSeqNum) := by
  rw [State.ackedBy_eq, decide_not]

theorem State.ackedBy_events : (s.ackedBy q).events =
    [if (s.ackedBy q).block.base = s.block.nextSeqNum then .tmrStop else .tmrStart s.cfg.T] := by
  rw [State.ackedBy_eq]

/-- The block after S_ACK differs from the one before it in three registers. -/
theorem State.ackedBy_pumpResult_block : (s.ackedBy q).pumpResult.block = { s.block with
    base := (s.ackedBy q).pumpResult.block.base
    nextSeqNum := (s.ackedBy q).pumpResult.block.nextSeqNum
    tmrRun := (s.ackedBy q).pumpResult.block.tmrRun } := by
  rw [State.ackedBy_eq]
  rfl

theorem State.ackedBy_pumpResult_respond (rsp : Word) (dout : Bytes) :
    (s.ackedBy q).pumpResult.respond rsp dout =
      s.answered (s.ackedBy q).pumpResult.block rsp dout (s.ackedBy q).pumpResult.events := by
  rw [State.ackedBy_eq]
  rfl

end AckedBy

/-- The timer runs after S_ACK unless the window has drained and nothing new was sent (R144, R145). -/
theorem State.ReadyToPump.acked_tmrRun {s : State} {q : SeqNum} (h : (s.ackedBy q).ReadyToPump) :
    (s.ackedBy q).pumpResult.block.tmrRun = (decide ((s.ackedBy q).block.base ≠ s.block.nextSeqNum) ||
      decide (s.block.nextSeqNum.toNat < (s.ackedBy q).pumpResult.block.nextSeqNum.toNat)) := by
  rw [h.pumpResult_tmrRun_eq, State.ackedBy_runs, State.ackedBy_nextSeqNum]
  by_cases hdrained : (s.ackedBy q).block.base = s.block.nextSeqNum
  · simp only [hdrained, ne_eq, not_true, decide_false, decide_true, Bool.false_or, Bool.true_and]
  · simp only [hdrained, ne_eq, not_false_eq_true, decide_true, Bool.true_or]

/-- The events of S_ACK: those of the timer, then the frames pump sends (R144, R145). -/
theorem State.ReadyToPump.acked_events {s : State} {q : SeqNum} (h : (s.ackedBy q).ReadyToPump) :
    (s.ackedBy q).pumpResult.events =
      (if (s.ackedBy q).block.base = s.block.nextSeqNum then
          (if s.block.nextSeqNum.toNat < (s.ackedBy q).pumpResult.block.nextSeqNum.toNat then
            [.tmrStop, .tmrStart s.cfg.T] else [.tmrStop])
        else [.tmrStart s.cfg.T]) ++
      s.sends s.block.nextSeqNum.toNat
        ((s.ackedBy q).pumpResult.block.nextSeqNum.toNat - s.block.nextSeqNum.toNat) := by
  rw [h.pumpResult_events, State.ackedBy_events, State.ackedBy_nextSeqNum, State.ackedBy_sends, State.ackedBy_cfg,
    ← List.append_assoc]
  congr 1
  by_cases hdrained : (s.ackedBy q).block.base = s.block.nextSeqNum
  · simp only [hdrained, if_true, true_and, apply_ite ([Event.tmrStop] ++ ·)]
    rfl
  · simp only [hdrained, if_false, false_and, List.append_nil]

/-- Settles O36, by what the registers and the events are before pump and what pump adds. -/
theorem ackMovesBaseThenTimerThenPumps : Obligations.AckMovesBaseThenTimerThenPumps := by
  intro s q p h habort hmode hframe hd
  have hserved := State.served_of_running habort hmode (.inr (.inl rfl))
  have hready := h.ackedBy_ready (hserved.running rfl) q
  have hbase : (s.ackedBy q).block.base.toNat =
      min (max s.block.base.toNat (q.toNat + 1)) s.block.nextSeqNum.toNat := by
    rw [State.ackedBy_base, ackedBase_toNat]
  have hnext := hready.pumpResult_next
  rw [State.ackedBy_cfg, State.ackedBy_outLen] at hnext
  refine ⟨_, exec_sAck_of_ok h hserved hframe hd, hbase, hnext, hready.acked_tmrRun,
    s.ackedBy_pumpResult_block q, ?_⟩
  rw [s.ackedBy_pumpResult_respond q, hready.acked_events]
  rfl

/-- Settles O37: a corrupt frame ends the operation before anything is written. -/
theorem corruptAckChangesNothing : Obligations.CorruptAckChangesNothing := by
  intro s c habort hmode hframe hd
  have hserved := State.served_of_running habort hmode (.inr (.inl rfl))
  rw [exec, execSAck, State.withFrame_run hframe, State.serve_run hserved.1 hserved.2, State.clearEvents_cfg, hd,
    ← responseWord_corrupt]
  rfl

/-- Settles O38: both cases are what O36's clamp gives for such a number. -/
theorem ackOutsideTheWindowIsClamped : Obligations.AckOutsideTheWindowIsClamped := by
  intro s q p h habort hmode hframe hd
  obtain ⟨t, hexec, hbase, hnext, htmr, hblock, ht⟩ :=
    ackMovesBaseThenTimerThenPumps s q p h habort hmode hframe hd
  have hwindow := h.base_le_next
  refine ⟨fun hstale => ?_, fun hbeyond => ?_⟩
  · have hsame : t.block.base = s.block.base := BitVec.eq_of_toNat_eq (by omega)
    have hidle : t.block.nextSeqNum = s.block.nextSeqNum :=
      BitVec.eq_of_toNat_eq (by rw [hnext, hsame, h.pumped])
    rw [hsame, hidle, Nat.sub_self] at ht
    rw [hsame, hidle] at hblock htmr
    rw [hexec, ht, hblock, htmr]
    simp only [Nat.lt_irrefl, if_false, decide_false, Bool.or_false, State.sends_zero, List.append_nil,
      apply_ite (fun e : Event => [e])]
  · have hdrained : t.block.base = s.block.nextSeqNum := BitVec.eq_of_toNat_eq (by omega)
    refine ⟨t, hexec, hdrained, by rw [hnext, hdrained], ?_⟩
    refine (congrArg State.events ht).trans ?_
    rw [if_pos hdrained]
    by_cases hsends : s.block.nextSeqNum.toNat < t.block.nextSeqNum.toNat
    · simp only [hsends, if_true]
      rfl
    · simp only [hsends, if_false]
      rfl

/-! ### S_TMO (R148 to R150) -/

/-- A served timeout resends the window where every slot of it can be read (R148). -/
theorem exec_sTmo_of_readable {s : State} (hserved : s.served .sTmo)
    (hread : s.readable s.block.base.toNat (s.block.nextSeqNum.toNat - s.block.base.toNat)) :
    exec .sTmo s = .next (s.answered { s.block with tmrRun := true } 0x00000000#32 []
      (.tmrStart s.cfg.T :: s.sends s.block.base.toNat (s.block.nextSeqNum.toNat - s.block.base.toNat))) := by
  have hstarted : s.clearEvents.startTimer.readable s.block.base.toNat
      (s.block.nextSeqNum.toNat - s.block.base.toNat) := hread
  rw [exec, execSTmo, State.serve_run hserved.1 hserved.2]
  simp only [State.clearEvents_block, sendSlots_ok _ _ _ hstarted]
  rfl

/-- Settles O39: every slot of the window lies below `out_len`. -/
theorem timeoutResendsTheWholeWindow : Obligations.TimeoutResendsTheWholeWindow := by
  intro s h habort hmode
  have hbase := h.base_le_next
  have hnext := h.next_le_len
  exact exec_sTmo_of_readable (State.served_of_running habort hmode (.inr (.inr rfl)))
    (h.storeOk.readable (by omega))

/-- Settles O40: an empty window has no slot to read, and none to send. -/
theorem timeoutOfAnEmptyWindowRestartsTheTimer : Obligations.TimeoutOfAnEmptyWindowRestartsTheTimer := by
  intro s habort hmode hempty
  have hserved := State.served_of_running habort hmode (.inr (.inr rfl))
  have hexec := exec_sTmo_of_readable hserved fun j hlow hhigh => by rw [hempty] at hlow hhigh; omega
  rwa [hempty, Nat.sub_self, State.sends_zero] at hexec

end Sys2Proof.Machine
end

section
/-! PROOFS. What an operation of the SND unit does to the modes and what it sends (41_sender.md R149, R153,
42_receiver.md R182). -/

namespace Sys2Proof.Machine

/-! ### The modes (R153, R182) -/

theorem State.turnedAway.block_eq {s t : State} {i : Instr} (h : s.turnedAway i t) : t.block = s.block := by
  rcases h with ⟨_, rfl⟩ | ⟨_, _, rfl⟩ <;> rfl

/-- Everything an operation can do to `s_mode` and `r_open` (R153, R182). -/
inductive ModeMove (i : Instr) (b : Block) : Block → Prop
  | kept {b' : Block} (hmode : b'.sMode = b.sMode) (hopen : b'.rOpen = b.rOpen) : ModeMove i b b'
  | opened {b' : Block} (hi : i = .sInit) (hmode : b'.sMode = .opened) (hopen : b'.rOpen = b.rOpen) : ModeMove i b b'
  | drained {b' : Block} (hi : i = .sFinal) (hrun : b.sMode ≠ .down) (hmode : b'.sMode = .drain)
    (hopen : b'.rOpen = b.rOpen) : ModeMove i b b'
  | receiverOpened {b' : Block} (hi : i = .rInit) (hmode : b'.sMode = b.sMode) (hopen : b'.rOpen = true) :
    ModeMove i b b'
  | receiverClosed {b' : Block} (hi : i = .rFinal) (hwas : b.rOpen = true) (hmode : b'.sMode = b.sMode)
    (hopen : b'.rOpen = false) : ModeMove i b b'

theorem State.turnedAway.modeMove {s t : State} {i : Instr} (h : s.turnedAway i t) : ModeMove i s.block t.block :=
  .kept (by rw [h.block_eq]) (by rw [h.block_eq])

/-- The receiver serves R_FINAL only where it is open (R182). -/
theorem State.served.rOpen {s : State} (h : s.served .rFinal) : s.block.rOpen = true := h.2

theorem exec_modeMove {i : Instr} {s t : State} (h : exec i s = .next t) : ModeMove i s.block t.block := by
  cases i with
  | enc q =>
    rcases execEnc_next h with haway | ⟨_, ⟨_, rfl⟩ | ⟨_, rfl⟩⟩
    · exact haway.modeMove
    · exact .kept rfl rfl
    · exact .kept rfl rfl
  | dec =>
    rcases (execDec_next h).2 with haway | ⟨_, ⟨_, _, _, rfl⟩ | ⟨_, _, rfl⟩⟩
    · exact haway.modeMove
    · exact .kept rfl rfl
    · exact .kept rfl rfl
  | sInit =>
    rcases execSInit_next h with haway | ⟨_, rfl⟩
    · exact haway.modeMove
    · exact .opened rfl rfl rfl
  | sFinal =>
    rcases execSFinal_next h with haway | ⟨hserved, rfl⟩
    · exact haway.modeMove
    · exact .drained rfl (hserved.running rfl) rfl rfl
  | sSubmit =>
    rcases execSSubmit_next h with haway | ⟨_, ⟨_, rfl⟩ | ⟨_, _, rfl⟩⟩
    · exact haway.modeMove
    · exact .kept rfl rfl
    · exact .kept rfl rfl
  | sAck =>
    rcases (execSAck_next h).2 with haway | ⟨_, ⟨_, _, rfl⟩ | ⟨q, _, _, _, rfl⟩⟩
    · exact haway.modeMove
    · exact .kept rfl rfl
    · have hblock := s.ackedBy_pumpResult_block q
      exact .kept (congrArg Block.sMode hblock :) (congrArg Block.rOpen hblock :)
  | sTmo =>
    rcases execSTmo_next h with haway | ⟨_, _, rfl⟩
    · exact haway.modeMove
    · exact .kept rfl rfl
  | rInit =>
    rcases execRInit_next h with haway | ⟨_, rfl⟩
    · exact haway.modeMove
    · exact .receiverOpened rfl rfl rfl
  | rFinal =>
    rcases execRFinal_next h with haway | ⟨hserved, rfl⟩
    · exact haway.modeMove
    · exact .receiverClosed rfl hserved.rOpen rfl rfl
  | rFrame =>
    rcases (execRFrame_next h).2 with haway | ⟨_, ⟨_, _, rfl⟩ | ⟨_, _, _, _, rfl⟩ | ⟨_, _, _, _, rfl⟩⟩
    · exact haway.modeMove
    · exact .kept rfl rfl
    · exact .kept rfl rfl
    · exact .kept rfl rfl

/-- Settles O45: each move of the modes is one of those listed. -/
theorem modesChangeOnlyByInitAndFinal : Obligations.ModesChangeOnlyByInitAndFinal := by
  intro i s t h
  cases exec_modeMove h with
  | kept hmode hopen => exact ⟨.inl hmode, .inl hopen⟩
  | opened hi hmode hopen => exact ⟨.inr (.inl ⟨hi, hmode⟩), .inl hopen⟩
  | drained hi hrun hmode hopen => exact ⟨.inr (.inr ⟨hi, hrun, hmode⟩), .inl hopen⟩
  | receiverOpened hi hmode hopen => exact ⟨.inl hmode, .inr (.inl ⟨hi, hopen⟩)⟩
  | receiverClosed hi hwas hmode hopen => exact ⟨.inl hmode, .inr (.inr ⟨hi, hwas, hopen⟩)⟩

/-! ### The frames sent (R58, R149) -/

/-- The frames that the S_SEND events of a range of slots carry (R140, R148). -/
theorem State.sSend_mem_sends {s : State} {i n : Nat} {f : Bytes} (h : Event.sSend f ∈ s.sends i n) :
    ∃ k, i ≤ k ∧ k < i + n ∧ f = s.frameOf k := by
  obtain ⟨k, hk, hf⟩ := List.mem_map.1 h
  obtain ⟨hlow, hhigh⟩ := List.mem_range'_1.1 hk
  exact ⟨k, hlow, hhigh, (Event.sSend.inj hf).symm⟩

/-- The frame is that of a slot of the window of the state (R149). -/
def State.SendsFromWindow (s : State) (f : Bytes) : Prop :=
  ∃ k, s.block.base.toNat ≤ k ∧ k < s.block.nextSeqNum.toNat ∧ f = s.frameOf k

/-- What pump sends is in the window after it; what was sent before must not be a frame. -/
theorem State.ReadyToPump.sSend_mem_pumpResult {s : State} {f : Bytes} (h : s.ReadyToPump)
    (hnone : Event.sSend f ∉ s.events) (hf : Event.sSend f ∈ s.pumpResult.events) :
    s.pumpResult.SendsFromWindow f := by
  rw [h.pumpResult_events, List.mem_append, List.mem_append] at hf
  rcases hf with hbefore | htimer | hsent
  · exact absurd hbefore hnone
  · split at htimer <;> simp at htimer
  · obtain ⟨k, hlow, hhigh, rfl⟩ := State.sSend_mem_sends hsent
    exact ⟨k, Nat.le_trans h.base_le_next hlow, by omega, rfl⟩

theorem State.turnedAway.events_eq {s t : State} {i : Instr} (h : s.turnedAway i t) : t.events = [] := by
  rcases h with ⟨_, rfl⟩ | ⟨_, _, rfl⟩ <;> rfl

/-- Only S_SUBMIT, S_ACK and S_TMO send frames, and each sends from the window it leaves (R149). -/
theorem exec_sendsFromWindow {i : Instr} {s t : State} (h : s.Inv) (hexec : exec i s = .next t) {f : Bytes}
    (hf : Event.sSend f ∈ t.events) : t.SendsFromWindow f := by
  have hnil : t.events ≠ [] := List.ne_nil_of_mem hf
  cases exec_emitsBy hexec _ hf with
  | sSend _ htransmits =>
    rcases htransmits with rfl | rfl | rfl
    · rcases execSSubmit_next hexec with haway | ⟨hserved, ⟨_, rfl⟩ | ⟨hroom, _, rfl⟩⟩
      · exact absurd haway.events_eq hnil
      · exact absurd rfl hnil
      · exact (h.submitted_ready hroom (hserved.running rfl)).sSend_mem_pumpResult List.not_mem_nil hf
    · rcases (execSAck_next hexec).2 with haway | ⟨hserved, ⟨_, _, rfl⟩ | ⟨q, _, _, _, rfl⟩⟩
      · exact absurd haway.events_eq hnil
      · exact absurd rfl hnil
      · have hnone : Event.sSend f ∉ (s.ackedBy q).events := by
          rw [State.ackedBy_events]
          split <;> simp
        exact (h.ackedBy_ready (hserved.running rfl) q).sSend_mem_pumpResult hnone hf
    · rcases execSTmo_next hexec with haway | ⟨_, _, rfl⟩
      · exact absurd haway.events_eq hnil
      · rcases List.mem_cons.1 hf with htimer | hsent
        · cases htimer
        · obtain ⟨k, hlow, hhigh, rfl⟩ := State.sSend_mem_sends hsent
          have hwindow := h.base_le_next
          exact ⟨k, hlow, show k < s.block.nextSeqNum.toNat by omega, rfl⟩

/-- Settles O41: every slot of the window holds a frame that decodes to its index. -/
theorem everyFrameSentIsTheStoredFrame : Obligations.EveryFrameSentIsTheStoredFrame := by
  intro i s t h hexec f hf
  obtain ⟨k, hlow, hhigh, rfl⟩ := exec_sendsFromWindow h hexec hf
  have ht := exec_inv h hexec
  obtain ⟨f, p, hslot, hd⟩ := ht.storeOk.slot_decodes (Nat.lt_of_lt_of_le hhigh ht.next_le_len)
  rw [State.frameOf_of_slot hslot]
  exact ⟨k, hlow, hhigh, hslot, p, hd⟩

end Sys2Proof.Machine
end

section
/-! PROOFS. The closed system (42_receiver.md R171, R176, 41_sender.md R132, R143, 70_reset_and_hazards.md R233, R238;
log entry 16): the two INITs establish its invariant, and over a run of detectable actions the receiver's cursor stays
between the sender's `base` and `next_seq_num`. -/

namespace Sys2Proof.Machine

/-! ### A command to one end (R232) -/

/-- A command presented is the operation whose word it is (R64, R90). -/
theorem step_present {s : State} (hlegal : s.cfg.legal = true) (i : Instr) (din : Bytes) :
    step (s.present ⟨encode i, din⟩) = exec i (s.latchDin din) := by
  exact (step_command (s := s.present ⟨encode i, din⟩) hlegal rfl).trans
    (runCommand_ok (c := ⟨encode i, din⟩) (decode_encode i) s)

theorem System.toSender_of_exec {y : System} {i : Instr} {din : Bytes} {t : State}
    (hlegal : y.snd.cfg.legal = true) (hexec : exec i (y.snd.latchDin din) = .next t) :
    y.toSender ⟨encode i, din⟩ = some { y with
      snd := t
      armed := timerAfter y.armed t.events
      dataLink := y.dataLink ++ t.events.filterMap sentFrame } := by
  rw [System.toSender, step_present hlegal, hexec]

theorem System.toReceiver_of_exec {y : System} {i : Instr} {din : Bytes} {t : State}
    (hlegal : y.rcv.cfg.legal = true) (hexec : exec i (y.rcv.latchDin din) = .next t) :
    y.toReceiver ⟨encode i, din⟩ = some { y with
      rcv := t
      ackLink := y.ackLink ++ t.events.filterMap ackedFrame
      delivered := y.delivered ++ t.events.filterMap deliveredFragment } := by
  rw [System.toReceiver, step_present hlegal, hexec]

/-! ### After the INITs (R132, R171) -/

/-- R_INIT is served whatever `r_open` is (R171). -/
theorem exec_rInit {s : State} (habort : s.block.abort = false) : exec .rInit s =
    .next (s.answered { s.block with rOpen := true, expectedSeqNum := 0#22 } 0x00000000#32 [] []) := by
  obtain ⟨t, ht⟩ := execRInit_answers s
  rcases execRInit_next ht with haway | ⟨_, rfl⟩
  · exact absurd haway (State.not_turnedAway habort (Bool.and_true _))
  · exact ht

/-- The system after S_INIT and R_INIT: both ends open, nothing in flight, everything yet to be submitted. -/
def System.afterInits (cfg : Config) (messages : List Bytes) : System :=
  { System.start cfg messages with
    snd := (State.resetWith cfg).answered Block.reset.restarted 0x00000000#32 [] [.tmrStop]
    rcv := (State.resetWith cfg).answered { Block.reset with rOpen := true } 0x00000000#32 [] [] }

theorem System.run_inits {cfg : Config} (hlegal : cfg.legal = true) (messages : List Bytes) :
    (System.start cfg messages).run [.initSender, .initReceiver] = some (System.afterInits cfg messages) := by
  have hsender := System.toSender_of_exec (y := System.start cfg messages) (din := []) hlegal
    (sInitCreatesAnEmptyWindow _ rfl)
  simp only [System.run, System.act, hsender]
  rw [System.toReceiver_of_exec hlegal (exec_rInit rfl)]
  rfl

theorem System.afterInits_inv {cfg : Config} (hlegal : cfg.legal = true) (messages : List Bytes) :
    (System.afterInits cfg messages).Inv messages where
  sender := (State.resetWith_inv hlegal).restarted _ _ _
  receiver := (State.resetWith_inv hlegal).of_keepsWindow rfl { Block.KeepsWindow.refl Block.reset with }
  sameConstants := rfl
  base_le_cursor := Nat.le_refl _
  cursor_le_next := Nat.le_refl _
  dataInFlight := nofun
  acksInFlight := nofun
  deliveredInOrder := rfl
  storedIsSubmitted := List.nil_prefix
  restIsToCome _ _ := rfl

/-- Settles O60: the two INITs are served after reset, and leave both ends as new. -/
theorem systemInvHoldsAfterTheInits : Obligations.SystemInvHoldsAfterTheInits := by
  intro cfg messages hlegal
  exact ⟨_, System.run_inits hlegal messages, System.afterInits_inv hlegal messages, rfl⟩

/-! ### What may be in flight (R229, R233) -/

/-- A frame of C bytes that is corrupt or the stored frame of a number already transmitted. -/
def State.HasTransmitted (s : State) (f : Bytes) : Prop :=
  f.length = s.cfg.C ∧ ∀ q p, decodeFrame s.cfg f = .ok q p →
    q.toNat < s.block.nextSeqNum.toNat ∧ f = s.frameOf q.toNat

/-- A frame of C bytes that is corrupt or carries a number already accepted. -/
def State.HasAccepted (r : State) (f : Bytes) : Prop :=
  f.length = r.cfg.C ∧ ∀ q p, decodeFrame r.cfg f = .ok q p → q.toNat < r.block.expectedSeqNum.toNat

/-- What was transmitted stays so for the rest of the session (R38). -/
theorem State.HasTransmitted.extends {s t : State} {f : Bytes} (h : s.HasTransmitted f) (hs : s.Inv)
    (hext : s.ExtendsTo t) : t.HasTransmitted f := by
  obtain ⟨hlen, hstored⟩ := h
  rw [State.HasTransmitted, hext.cfg]
  refine ⟨hlen, fun q p hd => ?_⟩
  obtain ⟨hq, hf⟩ := hstored q p hd
  have hslot : t.frameOf q.toNat = s.frameOf q.toNat := by
    rw [State.frameOf, State.frameOf, hext.slot _ (Nat.lt_of_lt_of_le hq hs.next_le_len)]
  exact ⟨Nat.lt_of_lt_of_le hq hext.next, hf.trans hslot.symm⟩

/-- What is sent from the window was transmitted: the number decoded is the slot's (R149). -/
theorem State.SendsFromWindow.hasTransmitted {t : State} {f : Bytes} (h : t.SendsFromWindow f) (ht : t.Inv) :
    t.HasTransmitted f := by
  obtain ⟨k, _, hk, rfl⟩ := h
  have hlen := ht.next_le_len
  have hdepth := ht.len_le_depth
  have hlegal := (Config.legal_iff _).1 ht.legal
  obtain ⟨f, p, hslot, hd⟩ := ht.storeOk.slot_decodes (Nat.lt_of_lt_of_le hk hlen)
  have hindex : (BitVec.ofNat 21 k).toNat = k := by
    rw [BitVec.toNat_ofNat]
    omega
  rw [State.frameOf_of_slot hslot]
  refine ⟨memRead_length hslot, fun q' p' hd' => ?_⟩
  cases hd.symm.trans hd'
  rw [hindex]
  exact ⟨hk, (State.frameOf_of_slot hslot).symm⟩

/-- An acceptance is never taken back: the cursor does not fall. -/
theorem State.HasAccepted.mono {r u : State} {f : Bytes} (h : r.HasAccepted f) (hcfg : u.cfg = r.cfg)
    (hcursor : r.block.expectedSeqNum.toNat ≤ u.block.expectedSeqNum.toNat) : u.HasAccepted f := by
  obtain ⟨hlen, hbelow⟩ := h
  rw [State.HasAccepted, hcfg]
  exact ⟨hlen, fun q p hd => Nat.lt_of_lt_of_le (hbelow q p hd) hcursor⟩

/-! ### The two ends and the links between them -/

/-- The part of the invariant of a session that is about the cursors and the frames in flight. -/
structure Linked (s r : State) (data acks : List Bytes) : Prop where
  sender : s.Inv
  receiver : r.Inv
  sameConstants : r.cfg = s.cfg
  base_le_cursor : s.block.base.toNat ≤ r.block.expectedSeqNum.toNat
  cursor_le_next : r.block.expectedSeqNum.toNat ≤ s.block.nextSeqNum.toNat
  data : ∀ f ∈ data, s.HasTransmitted f
  acks : ∀ f ∈ acks, r.HasAccepted f

/-- The two ends of a system are linked. -/
def System.Linked (y : System) : Prop := Machine.Linked y.snd y.rcv y.dataLink y.ackLink

theorem System.Inv.linked {messages : List Bytes} {y : System} (h : y.Inv messages) : y.Linked where
  sender := h.sender
  receiver := h.receiver
  sameConstants := h.sameConstants
  base_le_cursor := h.base_le_cursor
  cursor_le_next := h.cursor_le_next
  data := h.dataInFlight
  acks f hf := by
    rw [State.HasAccepted, h.sameConstants]
    exact h.acksInFlight f hf

section Moves

variable {s r : State} {data acks : List Bytes}

/-- The operations of the sender that a session is made of: all but S_INIT. -/
def IsSenderMove (i : Instr) : Prop := i = .sFinal ∨ i = .sSubmit ∨ i = .sAck ∨ i = .sTmo

/-- The operations of the receiver that a session is made of: all but R_INIT. -/
def IsReceiverMove (i : Instr) : Prop := i = .rFinal ∨ i = .rFrame

theorem IsSenderMove.ne_sInit {i : Instr} (h : IsSenderMove i) : i ≠ .sInit := by
  rcases h with rfl | rfl | rfl | rfl <;> nofun

theorem IsReceiverMove.ne_sInit {i : Instr} (h : IsReceiverMove i) : i ≠ .sInit := by
  rcases h with rfl | rfl <;> nofun

/-- Every operation but S_INIT makes a move of the session. -/
theorem exec_sessionMove {i : Instr} {t : State} (hi : i ≠ .sInit) (h : exec i s = .next t) : SessionMove s t :=
  (exec_next h).resolve_right fun ⟨hinit, _⟩ => hi hinit

/-! ### A move of the sender (R143, R149) -/

/-- The frames that the data link takes are those of the S_SEND events (R233). -/
theorem mem_filterMap_sentFrame {events : List Event} {f : Bytes} :
    f ∈ events.filterMap sentFrame ↔ Event.sSend f ∈ events := by
  rw [List.mem_filterMap]
  constructor
  · rintro ⟨e, he, hf⟩
    cases e with
    | sSend g => cases hf; exact he
    | rSend | rDeliver | tmrStart | tmrStop => cases hf
  · exact fun h => ⟨_, h, rfl⟩

/-- Of the operations of a session only S_ACK moves `base`, and only on a frame that decodes (R143). -/
theorem exec_base {i : Instr} {t : State} (hi : IsSenderMove i)
    (h : exec i s = .next t) : t.block.base = s.block.base ∨
      (i = .sAck ∧ ∃ q p, decodeFrame s.cfg s.din = .ok q p ∧
        t.block.base = ackedBase s.block.base s.block.nextSeqNum q) := by
  rcases hi with rfl | rfl | rfl | rfl
  · rcases execSFinal_next h with haway | ⟨_, rfl⟩
    · exact .inl (by rw [haway.block_eq])
    · exact .inl rfl
  · rcases execSSubmit_next h with haway | ⟨_, ⟨_, rfl⟩ | ⟨_, _, rfl⟩⟩
    · exact .inl (by rw [haway.block_eq])
    · exact .inl rfl
    · exact .inl rfl
  · rcases (execSAck_next h).2 with haway | ⟨_, ⟨_, _, rfl⟩ | ⟨q, p, hd, _, rfl⟩⟩
    · exact .inl (by rw [haway.block_eq])
    · exact .inl rfl
    · exact .inr ⟨rfl, q, p, hd, s.ackedBy_base q⟩
  · rcases execSTmo_next h with haway | ⟨_, _, rfl⟩
    · exact .inl (by rw [haway.block_eq])
    · exact .inl rfl

/-- An operation of the session keeps the ends linked, if S_ACK is given only what the receiver has accepted. -/
theorem Linked.sender_exec {i : Instr} {din : Bytes} {t : State} (h : Linked s r data acks)
    (hi : IsSenderMove i) (hack : i = .sAck → r.HasAccepted din)
    (hexec : exec i (s.latchDin din) = .next t) :
    Linked t r (data ++ t.events.filterMap sentFrame) acks ∧ t.cfg = s.cfg := by
  have hlatched : (s.latchDin din).Inv := h.sender.congr rfl rfl
  have hmove : SessionMove (s.latchDin din) t := exec_sessionMove hi.ne_sInit hexec
  have ht : t.Inv := exec_inv hlatched hexec
  have htaken : s.ExtendsTo (s.latchDin din) := .of_keepsWindow rfl (.refl _)
  have hext : s.ExtendsTo t := htaken.trans (hmove.extends hlatched)
  have hbase : t.block.base.toNat ≤ r.block.expectedSeqNum.toNat := by
    have hcursor := h.base_le_cursor
    rcases exec_base hi hexec with hsame | ⟨hsack, q, p, hd, hacked⟩
    · rw [hsame]
      exact hcursor
    · have hq : q.toNat < r.block.expectedSeqNum.toNat := (hack hsack).2 q p (by rw [h.sameConstants]; exact hd)
      rw [hacked, ackedBase_toNat]
      exact Nat.le_trans (Nat.min_le_left _ _) (Nat.max_le.2 ⟨hcursor, hq⟩)
  have hold : ∀ f ∈ data, t.HasTransmitted f := fun f hf => (h.data f hf).extends h.sender hext
  have hnew : ∀ f ∈ t.events.filterMap sentFrame, t.HasTransmitted f := fun f hf =>
    (exec_sendsFromWindow hlatched hexec (mem_filterMap_sentFrame.1 hf)).hasTransmitted ht
  refine ⟨?_, hext.cfg⟩
  exact
    { sender := ht
      receiver := h.receiver
      sameConstants := h.sameConstants.trans hext.cfg.symm
      base_le_cursor := hbase
      cursor_le_next := Nat.le_trans h.cursor_le_next hext.next
      data := List.forall_mem_append.2 ⟨hold, hnew⟩
      acks := h.acks }

/-! ### A move of the receiver (R172, R176 to R178) -/

/-- What an operation of the receiver does inside a session: nothing to the cursor and no acknowledgment, or a frame
with the cursor's number is accepted and echoed (R172, R176 to R178). -/
theorem exec_cursor {i : Instr} {u : State} (hi : IsReceiverMove i) (h : exec i r = .next u) :
    (u.block.expectedSeqNum = r.block.expectedSeqNum ∧ u.events.filterMap ackedFrame = []) ∨
    (i = .rFrame ∧ r.din.length = r.cfg.C ∧ ∃ q p, decodeFrame r.cfg r.din = .ok q p ∧
      q.toNat = r.block.expectedSeqNum.toNat ∧ u.block.expectedSeqNum.toNat = q.toNat + 1 ∧
      u.events.filterMap ackedFrame = [r.din]) := by
  rcases hi with rfl | rfl
  · rcases execRFinal_next h with haway | ⟨_, rfl⟩
    · exact .inl ⟨by rw [haway.block_eq], by rw [haway.events_eq]; rfl⟩
    · exact .inl ⟨rfl, rfl⟩
  · obtain ⟨hlen, hcases⟩ := execRFrame_next h
    rcases hcases with haway | ⟨_, ⟨_, _, rfl⟩ | ⟨q, p, hd, hq, rfl⟩ | ⟨_, _, _, _, rfl⟩⟩
    · exact .inl ⟨by rw [haway.block_eq], by rw [haway.events_eq]; rfl⟩
    · exact .inl ⟨rfl, rfl⟩
    · have hcount : (BitVec.ofNat 22 (q.toNat + 1)).toNat = q.toNat + 1 := by
        have := q.isLt
        rw [BitVec.toNat_ofNat]
        omega
      exact .inr ⟨rfl, hlen, q, p, hd, hq, hcount, rfl⟩
    · exact .inl ⟨rfl, rfl⟩

/-- A receiver whose cursor has gone no further than what was transmitted is still linked. -/
theorem Linked.receiver_moves {u : State} {new : List Bytes} (h : Linked s r data acks) (hu : u.Inv)
    (hcfg : u.cfg = r.cfg) (hcursor : r.block.expectedSeqNum.toNat ≤ u.block.expectedSeqNum.toNat)
    (hnext : u.block.expectedSeqNum.toNat ≤ s.block.nextSeqNum.toNat) (hnew : ∀ f ∈ new, u.HasAccepted f) :
    Linked s u data (acks ++ new) where
  sender := h.sender
  receiver := hu
  sameConstants := hcfg.trans h.sameConstants
  base_le_cursor := Nat.le_trans h.base_le_cursor hcursor
  cursor_le_next := hnext
  data := h.data
  acks := List.forall_mem_append.2 ⟨fun f hf => (h.acks f hf).mono hcfg hcursor, hnew⟩

/-- An operation of the session keeps the ends linked, if R_FRAME is given only what the sender has transmitted. -/
theorem Linked.receiver_exec {i : Instr} {din : Bytes} {u : State} (h : Linked s r data acks)
    (hi : IsReceiverMove i) (hframe : i = .rFrame → s.HasTransmitted din)
    (hexec : exec i (r.latchDin din) = .next u) : Linked s u data (acks ++ u.events.filterMap ackedFrame) := by
  have hlatched : (r.latchDin din).Inv := h.receiver.congr rfl rfl
  have hu : u.Inv := exec_inv hlatched hexec
  have hcfg : u.cfg = r.cfg := (exec_sessionMove hi.ne_sInit hexec).cfg_eq
  rcases exec_cursor hi hexec with ⟨hsame, hnone⟩ | ⟨hrframe, hlen, q, p, hd, hq, hcursor, hecho⟩
  · replace hsame : u.block.expectedSeqNum = r.block.expectedSeqNum := hsame
    rw [hnone]
    exact h.receiver_moves hu hcfg (by rw [hsame]) (by rw [hsame]; exact h.cursor_le_next) nofun
  · replace hq : q.toNat = r.block.expectedSeqNum.toNat := hq
    have hsent : q.toNat < s.block.nextSeqNum.toNat :=
      ((hframe hrframe).2 q p (by rw [← h.sameConstants]; exact hd)).1
    have haccepted : u.HasAccepted din := by
      rw [State.HasAccepted, hcfg]
      refine ⟨hlen, fun q' p' hd' => ?_⟩
      cases hd.symm.trans hd'
      rw [hcursor]
      exact Nat.lt_succ_self _
    rw [hecho]
    exact h.receiver_moves hu hcfg (by omega) (by omega) (List.forall_mem_singleton.2 haccepted)

end Moves

/-! ### The actions of the environment -/

/-- A command of the session to the sender keeps the ends linked and the constants. -/
theorem System.Linked.toSender {y y' : System} {i : Instr} {din : Bytes} (h : y.Linked)
    (hi : IsSenderMove i) (hack : i = .sAck → y.rcv.HasAccepted din)
    (hy : y.toSender ⟨encode i, din⟩ = some y') : y'.Linked ∧ y'.snd.cfg = y.snd.cfg := by
  obtain ⟨t, hstep, rfl⟩ := System.toSender_some hy
  rw [step_present h.sender.legal] at hstep
  exact h.sender_exec hi hack hstep

/-- A command of the session to the receiver keeps the ends linked and the constants. -/
theorem System.Linked.toReceiver {y y' : System} {i : Instr} {din : Bytes} (h : y.Linked)
    (hi : IsReceiverMove i) (hframe : i = .rFrame → y.snd.HasTransmitted din)
    (hy : y.toReceiver ⟨encode i, din⟩ = some y') : y'.Linked ∧ y'.snd.cfg = y.snd.cfg := by
  obtain ⟨u, hstep, rfl⟩ := System.toReceiver_some hy
  rw [step_present h.receiver.legal] at hstep
  exact ⟨h.receiver_exec hi hframe hstep, rfl⟩

/-- The links may hold any frames that may be in flight. -/
theorem System.Linked.withLinks {y : System} {data acks : List Bytes} (h : y.Linked)
    (hdata : ∀ f ∈ data, y.snd.HasTransmitted f) (hacks : ∀ f ∈ acks, y.rcv.HasAccepted f) :
    System.Linked { y with dataLink := data, ackLink := acks } :=
  { h with data := hdata, acks := hacks }

/-- A detectable corruption leaves a frame that carries no number (R229). -/
theorem decodeFrame_ne_ok_of_detectable {cfg : Config} {k : Nat} {f : Bytes}
    (h : (Action.dataCorrupted k f).detectable cfg = true ∨ (Action.ackCorrupted k f).detectable cfg = true)
    (q : SeqNum) (p : Bytes) : decodeFrame cfg f ≠ .ok q p := by
  intro hd
  simp [Action.detectable, hd] at h

/-- Every action of the environment, short of a new session or an undetected corruption, keeps the ends linked and the
constants. -/
theorem System.Linked.act {y y' : System} {a : Action} (h : y.Linked) (ha : a.detectable y.snd.cfg = true)
    (hact : y.act a = some y') : y'.Linked ∧ y'.snd.cfg = y.snd.cfg := by
  cases a with
  | initSender | initReceiver | resetBoth => cases ha
  | finalSender => exact h.toSender (.inl rfl) nofun hact
  | finalReceiver => exact h.toReceiver (.inl rfl) nofun hact
  | submit =>
    simp only [System.act] at hact
    split at hact
    · cases hact
    · next m rest _ => exact System.Linked.toSender (y := { y with upper := rest }) h (.inr (.inl rfl)) nofun hact
  | expire =>
    simp only [System.act] at hact
    split at hact
    · exact System.Linked.toSender (y := { y with armed := false }) h (.inr (.inr (.inr rfl))) nofun hact
    · cases hact
  | dataArrives k =>
    simp only [System.act] at hact
    split at hact
    · cases hact
    · next f hf =>
      have htaken := h.withLinks (data := y.dataLink.eraseIdx k) (fun g hg => h.data g (List.mem_of_mem_eraseIdx hg))
        h.acks
      exact htaken.toReceiver (.inr rfl) (fun _ => h.data f (List.mem_of_getElem? hf)) hact
  | ackArrives k =>
    simp only [System.act] at hact
    split at hact
    · cases hact
    · next f hf =>
      have htaken := h.withLinks (acks := y.ackLink.eraseIdx k) h.data fun g hg =>
        h.acks g (List.mem_of_mem_eraseIdx hg)
      exact htaken.toSender (.inr (.inr (.inl rfl))) (fun _ => h.acks f (List.mem_of_getElem? hf)) hact
  | dataDropped k =>
    simp only [System.act] at hact
    split at hact
    · cases hact
      exact ⟨h.withLinks (fun g hg => h.data g (List.mem_of_mem_eraseIdx hg)) h.acks, rfl⟩
    · cases hact
  | ackDropped k =>
    simp only [System.act] at hact
    split at hact
    · cases hact
      exact ⟨h.withLinks h.data fun g hg => h.acks g (List.mem_of_mem_eraseIdx hg), rfl⟩
    · cases hact
  | dataDuplicated k =>
    simp only [System.act] at hact
    split at hact
    · cases hact
    · next f hf =>
      cases hact
      have hcopy : y.snd.HasTransmitted f := h.data f (List.mem_of_getElem? hf)
      exact ⟨h.withLinks (List.forall_mem_append.2 ⟨h.data, List.forall_mem_singleton.2 hcopy⟩) h.acks, rfl⟩
  | ackDuplicated k =>
    simp only [System.act] at hact
    split at hact
    · cases hact
    · next f hf =>
      cases hact
      have hcopy : y.rcv.HasAccepted f := h.acks f (List.mem_of_getElem? hf)
      exact ⟨h.withLinks h.data (List.forall_mem_append.2 ⟨h.acks, List.forall_mem_singleton.2 hcopy⟩), rfl⟩
  | dataCorrupted k f =>
    simp only [System.act] at hact
    split at hact
    · next hf =>
      cases hact
      refine ⟨h.withLinks (fun g hg => ?_) h.acks, rfl⟩
      rcases List.mem_or_eq_of_mem_set hg with hold | rfl
      · exact h.data g hold
      · exact ⟨hf.2.trans (congrArg Config.C h.sameConstants),
          fun q p hd => absurd hd (decodeFrame_ne_ok_of_detectable (.inl ha) q p)⟩
    · cases hact
  | ackCorrupted k f =>
    simp only [System.act] at hact
    split at hact
    · next hf =>
      cases hact
      refine ⟨h.withLinks h.data fun g hg => ?_, rfl⟩
      rcases List.mem_or_eq_of_mem_set hg with hold | rfl
      · exact h.acks g hold
      · rw [State.HasAccepted, h.sameConstants]
        exact ⟨hf.2, fun q p hd => absurd hd (decodeFrame_ne_ok_of_detectable (.inr ha) q p)⟩
    · cases hact

/-- A run of such actions keeps the ends linked. -/
theorem System.Linked.run {cfg : Config} (actions : List Action) {y y' : System} (h : y.Linked)
    (hcfg : y.snd.cfg = cfg) (hactions : ∀ a ∈ actions, a.detectable cfg = true)
    (hrun : y.run actions = some y') : y'.Linked := by
  induction actions generalizing y with
  | nil =>
    cases hrun
    exact h
  | cons a rest ih =>
    rw [System.run] at hrun
    split at hrun
    · cases hrun
    · next z hz =>
      obtain ⟨hlinked, hsame⟩ := h.act (hcfg ▸ hactions a List.mem_cons_self) hz
      exact ih hlinked (hsame.trans hcfg) (fun b hb => hactions b (List.mem_cons_of_mem a hb)) hrun

/-- Settles O56: the ends are linked after the INITs, and stay so over the run. -/
theorem baseNeverPassesTheReceiverCursor : Obligations.BaseNeverPassesTheReceiverCursor := by
  intro cfg messages actions y0 y hlegal hinits hactions hrun
  cases (System.run_inits hlegal messages).symm.trans hinits
  have hlinked := (System.afterInits_inv hlegal messages).linked.run actions rfl hactions hrun
  exact ⟨hlinked.base_le_cursor, hlinked.cursor_le_next⟩

end Sys2Proof.Machine
end

section
/-! PROOFS. The operations of the RCV unit (42_receiver.md R171 to R182): what an open receiver answers, and what an
operation of any unit does to the cursor. -/

namespace Sys2Proof.Machine

/-! ### The life cycle (R171, R172) -/

/-- Settles O46: R_INIT is served whatever `r_open` is. -/
theorem rInitOpensTheReceiver : Obligations.RInitOpensTheReceiver :=
  fun _ habort => exec_rInit habort

/-- Settles O47: an open receiver serves R_FINAL, a closed one turns it away. -/
theorem rFinalClosesTheReceiver : Obligations.RFinalClosesTheReceiver := by
  intro s habort
  obtain ⟨t, ht⟩ := execRFinal_answers s
  refine ⟨fun hopen => ?_, fun hclosed => ?_⟩
  · rcases execRFinal_next ht with haway | ⟨_, rfl⟩
    · exact absurd haway (State.not_turnedAway habort hopen)
    · exact ht
  · rcases execRFinal_next ht with (⟨haborted, _⟩ | ⟨_, _, rfl⟩) | ⟨hserved, _⟩
    · exact absurd haborted (by simp [habort])
    · exact ht
    · exact absurd hserved.rOpen (by simp [hclosed])

/-! ### R_FRAME at an open receiver (R173 to R178, R180) -/

/-- An open receiver is not turned away from R_FRAME, so what `decode` finds and the cursor decide the answer. -/
theorem exec_rFrame_cases {s : State} (habort : s.block.abort = false) (hopen : s.block.rOpen = true)
    (hlen : s.din.length = s.cfg.C) :
    (∃ c, decodeFrame s.cfg s.din = .corrupt c ∧
      exec .rFrame s = .next (s.answered s.block (corruptResponse c) [] [])) ∨
    (∃ q p, decodeFrame s.cfg s.din = .ok q p ∧ q.toNat = s.block.expectedSeqNum.toNat ∧
      exec .rFrame s = .next (s.answered { s.block with expectedSeqNum := BitVec.ofNat 22 (q.toNat + 1) }
        (q.setWidth 32) [] [.rDeliver p, .rSend s.din])) ∨
    (∃ q p, decodeFrame s.cfg s.din = .ok q p ∧ q.toNat ≠ s.block.expectedSeqNum.toNat ∧
      exec .rFrame s = .next (s.answered s.block (0x20000000#32 ||| q.setWidth 32) [] [])) := by
  obtain ⟨t, ht⟩ := execRFrame_answers hlen
  rcases (execRFrame_next ht).2 with haway | ⟨_, ⟨c, hd, rfl⟩ | ⟨q, p, hd, hq, rfl⟩ | ⟨q, p, hd, hq, rfl⟩⟩
  · exact absurd haway (State.not_turnedAway habort hopen)
  · exact .inl ⟨c, hd, ht⟩
  · exact .inr (.inl ⟨q, p, hd, hq, ht⟩)
  · exact .inr (.inr ⟨q, p, hd, hq, ht⟩)

/-- Settles O48: of the three answers only the acceptance has the cursor's number. -/
theorem inOrderFrameIsDeliveredAndEchoed : Obligations.InOrderFrameIsDeliveredAndEchoed := by
  intro s q p habort hopen hlen hd hq
  rcases exec_rFrame_cases habort hopen hlen with ⟨c, hd', _⟩ | ⟨q', p', hd', _, hexec⟩ | ⟨q', p', hd', hq', _⟩
  · cases hd.symm.trans hd'
  · cases hd.symm.trans hd'
    exact hexec
  · cases hd.symm.trans hd'
    exact absurd hq hq'

/-- Settles O49: of the three answers those that are no acceptance drop the frame. -/
theorem otherFramesAreDroppedSilently : Obligations.OtherFramesAreDroppedSilently := by
  intro s habort hopen hlen
  rcases exec_rFrame_cases habort hopen hlen with ⟨c, hd, hexec⟩ | ⟨q, p, hd, hq, _⟩ | ⟨q, p, hd, _, hexec⟩ <;>
    rw [hd]
  · exact ⟨fun _ he => by cases he; exact hexec, nofun⟩
  · exact ⟨nofun, fun _ _ he hne => by cases he; exact absurd hq hne⟩
  · exact ⟨nofun, fun _ _ he _ => by cases he; exact hexec⟩

/-- The status of a corrupt frame is CORRUPT (R84). -/
theorem corruptResponse_status (c : Cause) : (corruptResponse c).extractLsb' 28 4 = 0x1#4 := by
  rw [← responseWord_corrupt]
  exact (responseWord_fields .corrupt (some c) 0#21).1

/-- The status of an out-of-order frame is OUT_OF_ORDER (R84). -/
theorem outOfOrderResponse_status (q : SeqNum) : (0x20000000#32 ||| q.setWidth 32).extractLsb' 28 4 = 0x2#4 := by
  rw [← responseWord_outOfOrder]
  exact (responseWord_fields .outOfOrder none q).1

/-- The status of a frame accepted is OK (R84). -/
theorem takenResponse_status (q : SeqNum) : (q.setWidth 32 : Word).extractLsb' 28 4 = 0x0#4 := by
  rw [← responseWord_ok]
  exact (responseWord_fields .ok none q).1

/-- Settles O51: no 21-bit number reaches the cursor, so the frame is none that is accepted. -/
theorem exhaustedCursorAcceptsNothing : Obligations.ExhaustedCursorAcceptsNothing := by
  intro s habort hopen hlen hcursor
  rcases exec_rFrame_cases habort hopen hlen with ⟨c, _, hexec⟩ | ⟨q, _, _, hq, _⟩ | ⟨q, _, _, _, hexec⟩
  · exact ⟨_, hexec, .inl (corruptResponse_status c), rfl, rfl⟩
  · exact absurd (hq.trans hcursor) (Nat.ne_of_lt q.isLt)
  · exact ⟨_, hexec, .inr (outOfOrderResponse_status q), rfl, rfl⟩

/-! ### The cursor (R181) -/

/-- Everything R_FRAME can do, in any state: drop the frame with a status other than OK, or accept the frame with the
cursor's number. -/
inductive FrameMove (s t : State) : Prop
  | dropped (hstatus : t.statusField ≠ 0x0#4) (hblock : t.block = s.block) (hevents : t.events = [])
  | accepted {q : SeqNum} {p : Bytes} (hd : decodeFrame s.cfg s.din = .ok q p)
    (hq : q.toNat = s.block.expectedSeqNum.toNat)
    (hstatus : t.statusField = 0x0#4) (hcursor : t.block.expectedSeqNum.toNat = s.block.expectedSeqNum.toNat + 1)
    (hevents : t.events = [.rDeliver p, .rSend s.din])

theorem State.turnedAway.status_ne_ok {s t : State} {i : Instr} (h : s.turnedAway i t) : t.statusField ≠ 0x0#4 := by
  rcases h with ⟨_, rfl⟩ | ⟨_, _, rfl⟩
  · exact show (0x70000000#32).extractLsb' 28 4 ≠ 0x0#4 by decide
  · exact show (0x30000000#32).extractLsb' 28 4 ≠ 0x0#4 by decide

theorem exec_frameMove {s t : State} (h : exec .rFrame s = .next t) : FrameMove s t := by
  rcases (execRFrame_next h).2 with haway | ⟨_, ⟨c, _, rfl⟩ | ⟨q, p, hd, hq, rfl⟩ | ⟨q, _, _, _, rfl⟩⟩
  · exact .dropped haway.status_ne_ok haway.block_eq haway.events_eq
  · exact .dropped (ne_of_eq_of_ne (corruptResponse_status c) (by decide)) rfl rfl
  · have hcount : (BitVec.ofNat 22 (q.toNat + 1)).toNat = s.block.expectedSeqNum.toNat + 1 := by
      have := q.isLt
      rw [BitVec.toNat_ofNat]
      omega
    exact .accepted hd hq (takenResponse_status q) hcount rfl
  · exact .dropped (ne_of_eq_of_ne (outOfOrderResponse_status q) (by decide)) rfl rfl

/-- An operation that does not see the receiver's registers leaves them as they are (R4). -/
theorem exec_keeps_cursor {i : Instr} {s t : State} (hunit : i.hwUnit ≠ .rcv) (h : exec i s = .next t) :
    t.block.expectedSeqNum = s.block.expectedSeqNum := by
  have hsame := exec_ignores_receiver s.block.rOpen s.block.expectedSeqNum hunit s
  replace hsame : exec i s = mapNext (·.withReceiver s.block.rOpen s.block.expectedSeqNum) (exec i s) := hsame
  rw [h] at hsame
  have hwritten : t = t.withReceiver s.block.rOpen s.block.expectedSeqNum := Host.Outcome.next.inj hsame
  rw [hwritten]
  rfl

/-- Of the operations other than R_FRAME only R_INIT writes the cursor (R181). -/
theorem exec_cursor_of_ne {i : Instr} {s t : State} (hframe : i ≠ .rFrame) (hinit : i ≠ .rInit)
    (h : exec i s = .next t) : t.block.expectedSeqNum = s.block.expectedSeqNum := by
  cases i with
  | rFrame => exact absurd rfl hframe
  | rInit => exact absurd rfl hinit
  | rFinal =>
    rcases execRFinal_next h with haway | ⟨_, rfl⟩
    · rw [haway.block_eq]
    · rfl
  | enc | dec | sInit | sFinal | sSubmit | sAck | sTmo => exact exec_keeps_cursor (by simp [Instr.hwUnit]) h

/-- A fragment is delivered by R_FRAME alone (R86). -/
theorem eq_rFrame_of_rDeliver {i : Instr} {s t : State} {p : Bytes} (h : exec i s = .next t)
    (hp : Event.rDeliver p ∈ t.events) : i = .rFrame := by
  cases exec_emitsBy h _ hp with
  | rDeliver _ hi => exact hi

/-- Settles O50: R_FRAME drops or accepts, and every other operation leaves the cursor and delivers nothing. -/
theorem cursorRisesByOneOnAcceptance : Obligations.CursorRisesByOneOnAcceptance := by
  intro i s t h
  by_cases hi : i = .rFrame
  · subst hi
    cases exec_frameMove h with
    | dropped hstatus hblock hevents =>
      refine ⟨fun _ hok => absurd hok hstatus, fun _ _ => by rw [hblock], fun p hp => ?_⟩
      rw [hevents] at hp
      cases hp
    | accepted hd hq hstatus hcursor hevents =>
      refine ⟨fun _ _ => ⟨hcursor, _, _, hd, hq⟩, fun hne _ => ?_, fun p hp => ?_⟩
      · exact absurd hstatus (hne.resolve_left (absurd rfl))
      · rw [hevents] at hp
        rcases List.mem_pair.1 hp with heq | heq
        · cases heq
          exact ⟨_, hd, hq⟩
        · cases heq
  · exact ⟨fun hframe => absurd hframe hi, fun _ hinit => exec_cursor_of_ne hi hinit h,
      fun p hp => absurd (eq_rFrame_of_rDeliver h hp) hi⟩

end Sys2Proof.Machine
end

section
/-! PROOFS. What a session delivers (42_receiver.md R179, 70_reset_and_hazards.md R233; log entry 16): the payloads
stored are the messages submitted, the payloads delivered are the stored ones below the cursor, and so every detectable
action keeps the invariant of the closed system. -/

namespace Sys2Proof.Machine

/-! ### The stored payloads of a session (R134, R135) -/

/-- The stored payloads depend on the constants, the store and `out_len` only. -/
theorem State.storedPayloads_congr {s t : State} (hc : t.cfg = s.cfg) (ho : t.block.out = s.block.out)
    (hl : t.block.outLen = s.block.outLen) : t.storedPayloads = s.storedPayloads := by
  simp only [State.storedPayloads, hl, State.frameOf_congr hc ho]

/-- A submission appends the payloads of its message to those stored (R134). -/
theorem State.StoreOk.submitted_storedPayloads {s : State} (h : s.StoreOk) (hroom : s.hasRoom) :
    s.submitted.storedPayloads = s.storedPayloads ++ segments s.cfg s.din := by
  have hlegal := (Config.legal_iff _).1 h.legal
  rw [State.storedPayloads, h.submitted_outLen hroom, List.range_add, List.map_append, List.map_map]
  congr 1
  · refine List.map_congr_left fun k hk => ?_
    rw [State.frameOf, State.frameOf, h.submitted_slot_old (List.mem_range.1 hk)]
  · refine List.map_congr_left fun j hj => ?_
    rw [Function.comp_apply, State.frameOf_of_slot (h.submitted_slot_new (List.mem_range.1 hj))]
    exact decodedPayload_encodeFrame (by omega) _ (segment_length_le _ _ _)

/-- The payloads of a message, in order, are the message (R135). -/
theorem segments_flatten {cfg : Config} (hlegal : cfg.legal = true) (m : Bytes) : (segments cfg m).flatten = m := by
  obtain ⟨_, _, _, hwhole, _⟩ := segmentsAreMaximalAndMakeTheMessage cfg m hlegal
  exact hwhole

/-- The sender is in a mode in which it takes messages (R131). -/
def State.TakesMessages (s : State) : Prop := s.block.sMode = .opened ∧ s.block.abort = false

theorem State.served.takesMessages {s : State} (h : s.served .sSubmit) : s.TakesMessages := by
  obtain ⟨habort, hserves⟩ := h
  refine ⟨?_, habort⟩
  cases hmode : s.block.sMode with
  | opened => rfl
  | down | drain => simp [State.serves, senderServes, hmode] at hserves

/-- Everything an operation of a session can do to what is stored. -/
inductive StoreMove (i : Instr) (s t : State) : Prop
  /-- Nothing is stored, and the sender takes messages after it only if it did before and was given none. -/
  | kept (hstored : t.storedPayloads = s.storedPayloads) (htakes : t.TakesMessages → s.TakesMessages ∧ i ≠ .sSubmit)
  /-- The message in DIN is stored whole. -/
  | submitted (hi : i = .sSubmit) (htakes : s.TakesMessages)
    (hstored : t.storedPayloads = s.storedPayloads ++ segments s.cfg s.din)

/-- An operation that leaves the store and the mode alone, and is no submission, moves nothing. -/
theorem StoreMove.of_same {i : Instr} {s t : State} (hi : i ≠ .sSubmit) (hc : t.cfg = s.cfg)
    (ho : t.block.out = s.block.out) (hl : t.block.outLen = s.block.outLen) (hm : t.block.sMode = s.block.sMode)
    (ha : t.block.abort = s.block.abort) : StoreMove i s t :=
  .kept (State.storedPayloads_congr hc ho hl) fun ⟨hopen, hclear⟩ => ⟨⟨hm ▸ hopen, ha ▸ hclear⟩, hi⟩

theorem State.turnedAway.cfg_eq {s t : State} {i : Instr} (h : s.turnedAway i t) : t.cfg = s.cfg := by
  rcases h with ⟨_, rfl⟩ | ⟨_, _, rfl⟩ <;> rfl

theorem State.turnedAway.storedPayloads {s t : State} {i : Instr} (h : s.turnedAway i t) :
    t.storedPayloads = s.storedPayloads :=
  State.storedPayloads_congr h.cfg_eq (by rw [h.block_eq]) (by rw [h.block_eq])

theorem State.turnedAway.storeMove {s t : State} {i : Instr} (h : s.turnedAway i t) : StoreMove i s t := by
  refine .kept h.storedPayloads fun htakes => ?_
  rw [State.TakesMessages, h.block_eq] at htakes
  refine ⟨htakes, fun hi => ?_⟩
  subst hi
  exact (State.served_sSubmit htakes.2 htakes.1).not_turnedAway h

theorem exec_storeMove {i : Instr} {s t : State} (h : s.Inv) (hi : IsSenderMove i) (hexec : exec i s = .next t) :
    StoreMove i s t := by
  rcases hi with rfl | rfl | rfl | rfl
  · rcases execSFinal_next hexec with haway | ⟨_, rfl⟩
    · exact haway.storeMove
    · exact .kept (State.storedPayloads_congr rfl rfl rfl) nofun
  · rcases execSSubmit_next hexec with haway | ⟨hserved, ⟨_, rfl⟩ | ⟨hroom, _, rfl⟩⟩
    · exact haway.storeMove
    · exact .kept (State.storedPayloads_congr rfl rfl rfl) nofun
    · exact .submitted rfl hserved.takesMessages (h.storeOk.submitted_storedPayloads hroom)
  · rcases (execSAck_next hexec).2 with haway | ⟨_, ⟨_, _, rfl⟩ | ⟨q, _, _, _, rfl⟩⟩
    · exact haway.storeMove
    · exact .of_same nofun rfl rfl rfl rfl rfl
    · rw [State.ackedBy_eq]
      exact .of_same nofun rfl rfl rfl rfl rfl
  · rcases execSTmo_next hexec with haway | ⟨_, _, rfl⟩
    · exact haway.storeMove
    · exact .of_same nofun rfl rfl rfl rfl rfl

/-! ### What a session owes the upper layers (R179) -/

/-- The part of the invariant of a session that is about the payloads: `delivered` are those delivered, `upper` the
messages to come. -/
structure Accounts (messages : List Bytes) (s r : State) (upper delivered : List Bytes) : Prop where
  deliveredInOrder : delivered = s.storedPayloads.take r.block.expectedSeqNum.toNat
  storedIsSubmitted : s.storedPayloads.flatten <+: messages.flatten
  restIsToCome : s.TakesMessages → s.storedPayloads.flatten ++ upper.flatten = messages.flatten

theorem System.Inv.accounts {messages : List Bytes} {y : System} (h : y.Inv messages) :
    Accounts messages y.snd y.rcv y.upper y.delivered :=
  ⟨h.deliveredInOrder, h.storedIsSubmitted, fun ⟨hopen, hclear⟩ => h.restIsToCome hopen hclear⟩

/-- The invariant of a session is made of its two parts. -/
theorem System.Linked.inv {messages : List Bytes} {y : System} (h : y.Linked)
    (hacc : Accounts messages y.snd y.rcv y.upper y.delivered) : y.Inv messages where
  sender := h.sender
  receiver := h.receiver
  sameConstants := h.sameConstants
  base_le_cursor := h.base_le_cursor
  cursor_le_next := h.cursor_le_next
  dataInFlight := h.data
  acksInFlight f hf := by
    rw [← h.sameConstants]
    exact h.acks f hf
  deliveredInOrder := hacc.deliveredInOrder
  storedIsSubmitted := hacc.storedIsSubmitted
  restIsToCome hopen hclear := hacc.restIsToCome ⟨hopen, hclear⟩

section Moves

variable {messages upper delivered : List Bytes} {s r : State}

/-- The messages to come after an operation: the one in DIN is taken by S_SUBMIT (R234). -/
def UpperGives (i : Instr) (din : Bytes) (upper upper' : List Bytes) : Prop :=
  (i = .sSubmit ∧ upper = din :: upper') ∨ (i ≠ .sSubmit ∧ upper' = upper)

/-- An operation of the sender keeps the accounts: what it stores stands behind what was delivered and comes from the
upper layer. -/
theorem Accounts.sender_exec {i : Instr} {din : Bytes} {t : State} {upper' : List Bytes}
    (h : Accounts messages s r upper delivered) (hs : s.Inv)
    (hcursor : r.block.expectedSeqNum.toNat ≤ s.block.outLen.toNat) (hi : IsSenderMove i)
    (hupper : UpperGives i din upper upper') (hexec : exec i (s.latchDin din) = .next t) :
    Accounts messages t r upper' delivered := by
  have hlatched : (s.latchDin din).Inv := hs.congr rfl rfl
  have hsame : (s.latchDin din).storedPayloads = s.storedPayloads := State.storedPayloads_congr rfl rfl rfl
  cases exec_storeMove hlatched hi hexec with
  | kept hstored htakes =>
    rw [hsame] at hstored
    refine ⟨hstored ▸ h.deliveredInOrder, hstored ▸ h.storedIsSubmitted, fun ht => ?_⟩
    obtain ⟨hbefore, hne⟩ := htakes ht
    rcases hupper with ⟨hsubmit, _⟩ | ⟨_, rfl⟩
    · exact absurd hsubmit hne
    · rw [hstored]
      exact h.restIsToCome hbefore
  | submitted hsubmit htakes hstored =>
    rcases hupper with ⟨_, rfl⟩ | ⟨hne, _⟩
    · replace hstored : t.storedPayloads = s.storedPayloads ++ segments s.cfg din := hsame ▸ hstored
      have hflat : t.storedPayloads.flatten = s.storedPayloads.flatten ++ din := by
        rw [hstored, List.flatten_append, segments_flatten hs.legal]
      have hrest : t.storedPayloads.flatten ++ upper'.flatten = messages.flatten := by
        rw [hflat, List.append_assoc]
        exact h.restIsToCome htakes
      refine ⟨?_, ⟨_, hrest⟩, fun _ => hrest⟩
      rw [hstored, List.take_append_of_le_length (by simpa using hcursor)]
      exact h.deliveredInOrder
    · exact absurd hsubmit hne

/-- Of the operations of a session only an accepting R_FRAME delivers, and what it delivers is the payload of the frame
with the cursor's number (R176, R181). -/
theorem exec_delivers {i : Instr} {u : State} (hi : IsReceiverMove i) (h : exec i r = .next u) :
    (u.block.expectedSeqNum = r.block.expectedSeqNum ∧ u.events.filterMap deliveredFragment = []) ∨
    (i = .rFrame ∧ ∃ q p, decodeFrame r.cfg r.din = .ok q p ∧ q.toNat = r.block.expectedSeqNum.toNat ∧
      u.block.expectedSeqNum.toNat = r.block.expectedSeqNum.toNat + 1 ∧
      u.events.filterMap deliveredFragment = [p]) := by
  rcases hi with rfl | rfl
  · refine .inl ⟨exec_cursor_of_ne (by decide) (by decide) h, ?_⟩
    rcases execRFinal_next h with haway | ⟨_, rfl⟩
    · rw [haway.events_eq]; rfl
    · rfl
  · cases exec_frameMove h with
    | dropped _ hblock hevents => exact .inl ⟨by rw [hblock], by rw [hevents]; rfl⟩
    | accepted hd hq _ hcursor hevents => exact .inr ⟨rfl, _, _, hd, hq, hcursor, by rw [hevents]; rfl⟩

/-- An operation of the receiver keeps the accounts, if R_FRAME is given only what the sender has transmitted: the
payload accepted is the next of the stored ones. -/
theorem Accounts.receiver_exec {i : Instr} {din : Bytes} {u : State}
    (h : Accounts messages s r upper delivered) (hs : s.Inv) (hcfg : r.cfg = s.cfg) (hi : IsReceiverMove i)
    (hframe : i = .rFrame → s.HasTransmitted din) (hexec : exec i (r.latchDin din) = .next u) :
    Accounts messages s u upper (delivered ++ u.events.filterMap deliveredFragment) := by
  refine ⟨?_, h.storedIsSubmitted, h.restIsToCome⟩
  rcases exec_delivers hi hexec with ⟨hsame, hnone⟩ | ⟨hrframe, q, p, hd, hq, hcursor, hone⟩
  · rw [hnone, hsame, List.append_nil]
    exact h.deliveredInOrder
  · replace hd : decodeFrame s.cfg din = .ok q p := hcfg ▸ hd
    replace hq : q.toNat = r.block.expectedSeqNum.toNat := hq
    replace hcursor : u.block.expectedSeqNum.toNat = r.block.expectedSeqNum.toNat + 1 := hcursor
    obtain ⟨hsent, hf⟩ := (hframe hrframe).2 q p hd
    obtain ⟨_, _, _, hp, _⟩ := (decodeFrame_ok_iff _ _ _ _).1 hd
    have hnext : s.storedPayloads[q.toNat]? = some p := by
      rw [State.storedPayloads_getElem? (Nat.lt_of_lt_of_le hsent hs.next_le_len), ← hf, hp]
    rw [hone, hcursor, h.deliveredInOrder, ← hq, List.take_add_one, hnext]
    rfl

end Moves

/-! ### The actions of the environment -/

/-- Everything an action of the session can do to the two ends and the upper layers. -/
inductive System.Acts (y y' : System) : Prop
  /-- The link acts, and no end hears of it (R233). -/
  | link (hsnd : y'.snd = y.snd) (hrcv : y'.rcv = y.rcv) (hupper : y'.upper = y.upper)
    (hdelivered : y'.delivered = y.delivered)
  /-- The sender runs an operation. -/
  | sender {i : Instr} {din : Bytes} (hi : IsSenderMove i) (hupper : UpperGives i din y.upper y'.upper)
    (hexec : exec i (y.snd.latchDin din) = .next y'.snd) (hrcv : y'.rcv = y.rcv)
    (hdelivered : y'.delivered = y.delivered)
  /-- The receiver runs an operation, R_FRAME on a frame in flight. -/
  | receiver {i : Instr} {din : Bytes} (hi : IsReceiverMove i) (hframe : i = .rFrame → din ∈ y.dataLink)
    (hexec : exec i (y.rcv.latchDin din) = .next y'.rcv) (hsnd : y'.snd = y.snd) (hupper : y'.upper = y.upper)
    (hdelivered : y'.delivered = y.delivered ++ y'.rcv.events.filterMap deliveredFragment)

/-- A command to the sender's block runs the operation there, and no one above hears of it. -/
theorem System.toSender_exec {y y' : System} {i : Instr} {din : Bytes} (hlegal : y.snd.cfg.legal = true)
    (h : y.toSender ⟨encode i, din⟩ = some y') : exec i (y.snd.latchDin din) = .next y'.snd ∧
      y'.rcv = y.rcv ∧ y'.upper = y.upper ∧ y'.delivered = y.delivered := by
  obtain ⟨t, hstep, rfl⟩ := System.toSender_some h
  rw [step_present hlegal] at hstep
  exact ⟨hstep, rfl, rfl, rfl⟩

/-- A command to the receiver's block runs the operation there, and its fragments go up. -/
theorem System.toReceiver_exec {y y' : System} {i : Instr} {din : Bytes} (hlegal : y.rcv.cfg.legal = true)
    (h : y.toReceiver ⟨encode i, din⟩ = some y') : exec i (y.rcv.latchDin din) = .next y'.rcv ∧
      y'.snd = y.snd ∧ y'.upper = y.upper ∧
      y'.delivered = y.delivered ++ y'.rcv.events.filterMap deliveredFragment := by
  obtain ⟨u, hstep, rfl⟩ := System.toReceiver_some h
  rw [step_present hlegal] at hstep
  exact ⟨hstep, rfl, rfl, rfl⟩

theorem System.act_acts {y y' : System} {a : Action} (hsender : y.snd.cfg.legal = true)
    (hreceiver : y.rcv.cfg.legal = true) (ha : a.detectable y.snd.cfg = true) (hact : y.act a = some y') :
    y.Acts y' := by
  cases a with
  | initSender | initReceiver | resetBoth => cases ha
  | finalSender =>
    obtain ⟨hexec, hrcv, hupper, hdelivered⟩ := System.toSender_exec hsender hact
    exact .sender (.inl rfl) (.inr ⟨nofun, hupper⟩) hexec hrcv hdelivered
  | finalReceiver =>
    obtain ⟨hexec, hsnd, hupper, hdelivered⟩ := System.toReceiver_exec hreceiver hact
    exact .receiver (.inl rfl) nofun hexec hsnd hupper hdelivered
  | submit =>
    simp only [System.act] at hact
    split at hact
    · cases hact
    · next m rest hnext =>
      obtain ⟨hexec, hrcv, hupper, hdelivered⟩ := System.toSender_exec (y := { y with upper := rest }) hsender hact
      exact .sender (.inr (.inl rfl)) (.inl ⟨rfl, by rw [hupper, hnext]⟩) hexec hrcv hdelivered
  | expire =>
    simp only [System.act] at hact
    split at hact
    · obtain ⟨hexec, hrcv, hupper, hdelivered⟩ := System.toSender_exec (y := { y with armed := false }) hsender hact
      exact .sender (.inr (.inr (.inr rfl))) (.inr ⟨nofun, hupper⟩) hexec hrcv hdelivered
    · cases hact
  | dataArrives k =>
    simp only [System.act] at hact
    split at hact
    · cases hact
    · next f hf =>
      obtain ⟨hexec, hsnd, hupper, hdelivered⟩ := System.toReceiver_exec
        (y := { y with dataLink := y.dataLink.eraseIdx k }) hreceiver hact
      exact .receiver (.inr rfl) (fun _ => List.mem_of_getElem? hf) hexec hsnd hupper hdelivered
  | ackArrives k =>
    simp only [System.act] at hact
    split at hact
    · cases hact
    · obtain ⟨hexec, hrcv, hupper, hdelivered⟩ := System.toSender_exec (y := { y with ackLink := y.ackLink.eraseIdx k })
        hsender hact
      exact .sender (.inr (.inr (.inl rfl))) (.inr ⟨nofun, hupper⟩) hexec hrcv hdelivered
  | dataDropped | ackDropped | dataCorrupted | ackCorrupted =>
    simp only [System.act] at hact
    split at hact
    · cases hact
      exact .link rfl rfl rfl rfl
    · cases hact
  | dataDuplicated | ackDuplicated =>
    simp only [System.act] at hact
    split at hact
    · cases hact
    · cases hact
      exact .link rfl rfl rfl rfl

/-- An action of the session keeps the accounts, as the ends are linked. -/
theorem System.Acts.accounts {messages : List Bytes} {y y' : System} (hacts : y.Acts y') (h : y.Linked)
    (hacc : Accounts messages y.snd y.rcv y.upper y.delivered) :
    Accounts messages y'.snd y'.rcv y'.upper y'.delivered := by
  cases hacts with
  | link hsnd hrcv hupper hdelivered =>
    rw [hsnd, hrcv, hupper, hdelivered]
    exact hacc
  | sender hi hupper hexec hrcv hdelivered =>
    rw [hrcv, hdelivered]
    exact hacc.sender_exec h.sender (Nat.le_trans h.cursor_le_next h.sender.next_le_len) hi hupper hexec
  | receiver hi hframe hexec hsnd hupper hdelivered =>
    rw [hsnd, hupper, hdelivered]
    exact hacc.receiver_exec h.sender h.sameConstants hi (fun hrframe => h.data _ (hframe hrframe)) hexec

/-- Settles O59: the ends stay linked, and the accounts are kept because they are. -/
theorem detectableActionsKeepTheSystemInv : Obligations.DetectableActionsKeepTheSystemInv := by
  intro messages y y' a h ha hact
  obtain ⟨hlinked, hcfg⟩ := h.linked.act ha hact
  have hacts := System.act_acts h.sender.legal h.receiver.legal ha hact
  exact ⟨hlinked.inv (hacts.accounts h.linked h.accounts), hcfg⟩

/-! ### A run of the session (R179) -/

/-- What every detectable action keeps along with the constants, every run of such actions keeps. -/
theorem System.run_keeps {P : System → Prop} {cfg : Config}
    (hstep : ∀ (y y' : System) (a : Action), P y → a.detectable y.snd.cfg = true → y.act a = some y' →
      P y' ∧ y'.snd.cfg = y.snd.cfg)
    (actions : List Action) {y y' : System} (h : P y) (hcfg : y.snd.cfg = cfg)
    (hactions : ∀ a ∈ actions, a.detectable cfg = true) (hrun : y.run actions = some y') : P y' := by
  induction actions generalizing y with
  | nil =>
    cases hrun
    exact h
  | cons a rest ih =>
    rw [System.run] at hrun
    split at hrun
    · cases hrun
    · next z hz =>
      obtain ⟨hkept, hsame⟩ := hstep y z a h (hcfg ▸ hactions a List.mem_cons_self) hz
      exact ih hkept (hsame.trans hcfg) (fun b hb => hactions b (List.mem_cons_of_mem a hb)) hrun

/-- What is stored begins with what was delivered, and the submission begins with what is stored. -/
theorem System.Inv.delivered_prefix {messages : List Bytes} {y : System} (h : y.Inv messages) :
    y.delivered.flatten <+: messages.flatten := by
  rw [h.deliveredInOrder]
  exact (List.take_prefix _ _).flatten.trans h.storedIsSubmitted

/-- As many fragments were delivered as the cursor says: that many frames are stored. -/
theorem System.Inv.delivered_length {messages : List Bytes} {y : System} (h : y.Inv messages) :
    y.delivered.length = y.rcv.block.expectedSeqNum.toNat := by
  rw [h.deliveredInOrder, List.length_take, State.storedPayloads_length]
  exact Nat.min_eq_left (Nat.le_trans h.cursor_le_next h.sender.next_le_len)

/-- Settles O55: the invariant holds after the INITs and over the run. -/
theorem deliveryIsAPrefixOfTheSubmission : Obligations.DeliveryIsAPrefixOfTheSubmission := by
  intro cfg messages actions y0 y hlegal hinits hactions hrun
  cases (System.run_inits hlegal messages).symm.trans hinits
  have hinv := System.run_keeps (detectableActionsKeepTheSystemInv messages) actions
    (System.afterInits_inv hlegal messages) rfl hactions hrun
  exact ⟨hinv.delivered_prefix, hinv.delivered_length⟩

end Sys2Proof.Machine
end

section
/-! PROOFS. The statuses of a response (60_exceptions.md R190 to R203): where a command is turned away before its
operation runs, and what each status says of the state after it. -/

namespace Sys2Proof.Machine

/-! ### Nothing presented (R214, R223) -/

/-- Settles O6: with no input to take, the step takes none. -/
theorem idleBlockKeepsItsState : Obligations.IdleBlockKeepsItsState := by
  intro s hlegal hidle
  rw [step, if_pos hlegal, hidle]

/-! ### The command word (R81, R195) -/

/-- A word that decodes has none of the defects of R195. -/
theorem fields_of_decode {w : Word} {i : Instr} (h : decode w = .ok i) :
    opField w ≠ 0x0#4 ∧ (opField w).toNat < 0xB ∧ zeroField w = 0#7 ∧ (opField w ≠ 0x1#4 → seqField w = 0#21) := by
  obtain ⟨hselect, hzero, hclear⟩ := (decode_ok_iff w i).1 h
  obtain ⟨hlow, hhigh⟩ := (selectOp_isSome_iff _ _).1 (Option.isSome_of_eq_some hselect)
  refine ⟨fun hop => by simp [hop] at hlow, Nat.lt_succ_of_le hhigh, hzero, fun hop => hclear ?_⟩
  have hcode := (selectOp_inv hselect).1
  cases i with
  | enc => exact absurd hcode.symm hop
  | dec | sInit | sFinal | sSubmit | sAck | sTmo | rInit | rFinal | rFrame => rfl

/-- Settles O3: a word with a defect does not decode, and is answered before any operation looks at the state. -/
theorem illegalWordAnswersIllegalCmd : Obligations.IllegalWordAnswersIllegalCmd := by
  intro s c rest hlegal hi hdefect
  rw [step_command hlegal hi]
  cases hd : decode c.word with
  | error e =>
    rw [runCommand_illegal hd]
    rfl
  | ok i =>
    obtain ⟨hlow, hhigh, hzero, hseq⟩ := fields_of_decode hd
    rcases hdefect with hop | hop | hset | ⟨hop, hset⟩
    · exact absurd hop hlow
    · exact absurd hhigh (Nat.not_lt.2 hop)
    · exact absurd hzero hset
    · exact absurd (hseq hop) hset

/-! ### The block-wide checks (R193, R197, R200) -/

/-- Every command that can be presented goes through the block-wide checks before anything else (R200). -/
theorem exec_eq_serve {i : Instr} {s : State} (hwf : i.wellFormed s.cfg s.din = true) :
    ∃ body, exec i s = s.serve i body := by
  cases i with
  | enc q => exact ⟨_, by rw [exec, execEnc]⟩
  | dec => exact ⟨_, by rw [exec, execDec, State.withFrame_run (beq_iff_eq.1 hwf)]⟩
  | sInit => exact ⟨_, by rw [exec, execSInit]⟩
  | sFinal => exact ⟨_, by rw [exec, execSFinal]⟩
  | sSubmit => exact ⟨_, by rw [exec, execSSubmit]⟩
  | sAck => exact ⟨_, by rw [exec, execSAck, State.withFrame_run (beq_iff_eq.1 hwf)]⟩
  | sTmo => exact ⟨_, by rw [exec, execSTmo]⟩
  | rInit => exact ⟨_, by rw [exec, execRInit]⟩
  | rFinal => exact ⟨_, by rw [exec, execRFinal]⟩
  | rFrame => exact ⟨_, by rw [exec, execRFrame, State.withFrame_run (beq_iff_eq.1 hwf)]⟩

/-- Settles O15: `abort` is the first of the checks, and no operation is spared it. -/
theorem abortedBlockRefusesEveryOperation : Obligations.AbortedBlockRefusesEveryOperation := by
  intro i s habort hwf
  obtain ⟨body, hexec⟩ := exec_eq_serve hwf
  rcases s.serve_cases i body with ⟨_, hserve⟩ | ⟨hclear, _⟩ | ⟨hclear, _⟩
  · exact hexec.trans hserve
  · simp [habort] at hclear
  · simp [habort] at hclear

/-- An operation that its unit does not serve answers NOT_OPEN (R193). -/
theorem exec_of_not_serves {i : Instr} {s : State} (habort : s.block.abort = false)
    (hwf : i.wellFormed s.cfg s.din = true) (hserves : s.serves i = false) :
    exec i s = .next (s.answered s.block 0x30000000#32 [] []) := by
  obtain ⟨body, hexec⟩ := exec_eq_serve hwf
  rcases s.serve_cases i body with ⟨haborted, _⟩ | ⟨_, _, hserve⟩ | ⟨_, hserved, _⟩
  · simp [habort] at haborted
  · exact hexec.trans hserve
  · simp [hserves] at hserved

/-- The gating tables of R131 and R182 refuse what R193 lists, operation by operation. -/
theorem State.serves_eq_false_iff (s : State) (i : Instr) : s.serves i = false ↔ s.closedFor i := by
  cases i with
  | enc | dec | rInit | rFinal | rFrame => simp [State.serves, senderServes, receiverServes, State.closedFor]
  | sInit | sFinal | sSubmit | sAck | sTmo =>
    cases hmode : s.block.sMode <;> simp [State.serves, senderServes, receiverServes, State.closedFor, hmode]

/-- Settles O33: OPEN serves S_SUBMIT, and the room of the store is the first thing it looks at. -/
theorem submitWithoutRoomOnlyAborts : Obligations.SubmitWithoutRoomOnlyAborts := by
  intro s habort hmode hfull
  rw [exec, execSSubmit, State.serve_run habort (State.served_sSubmit habort hmode).2]
  exact if_pos hfull

/-! ### What a status says of the state (R198, R201) -/

/-- How an operation can end, by its status: what each status says of the block and of the events (R201, R202). -/
inductive Ending (i : Instr) (s t : State) : Prop
  /-- ABORTED or NOT_OPEN, by the block-wide checks. -/
  | turnedAway (haway : s.turnedAway i t)
  /-- CORRUPT, OUT_OF_ORDER or CONTRACT, by the operation's own checks. -/
  | refused (hstatus : t.statusField = 0x1#4 ∨ t.statusField = 0x2#4 ∨ t.statusField = 0x4#4)
    (hblock : t.block = s.block) (hevents : t.events = [])
  /-- ALLOC_FAIL: a submission for which the store has no room. -/
  | aborted (hi : i = .sSubmit) (hwas : s.block.abort = false) (hstatus : t.statusField = 0x6#4)
    (hblock : t.block = { s.block with abort := true }) (hevents : t.events = [])
  /-- OK. -/
  | done (hstatus : t.statusField = 0x0#4) (habort : t.block.abort = s.block.abort)

/-- The status of a response is read off its word alone (R83). -/
theorem State.statusField_of_rsp {t : State} {code : BitVec 4} (w : Word) (hrsp : t.rsp = w)
    (hcode : w.extractLsb' 28 4 = code) : t.statusField = code := by
  rw [State.statusField, hrsp, hcode]

theorem Ending.of_okWord {i : Instr} {s t : State} (hrsp : t.rsp = 0x00000000#32)
    (habort : t.block.abort = s.block.abort) : Ending i s t :=
  .done (State.statusField_of_rsp _ hrsp rfl) habort

theorem Ending.of_corrupt {i : Instr} {s : State} (c : Cause) :
    Ending i s (s.answered s.block (corruptResponse c) [] []) :=
  .refused (.inl (corruptResponse_status c)) rfl rfl

/-- Every operation ends in one of these ways. -/
theorem exec_ending {i : Instr} {s t : State} (h : exec i s = .next t) : Ending i s t := by
  cases i with
  | enc q =>
    rcases execEnc_next h with haway | ⟨_, ⟨_, rfl⟩ | ⟨_, rfl⟩⟩
    · exact .turnedAway haway
    · exact .refused (.inr (.inr (State.statusField_of_rsp 0x40000000#32 rfl rfl))) rfl rfl
    · exact .of_okWord rfl rfl
  | dec =>
    rcases (execDec_next h).2 with haway | ⟨_, ⟨q, _, _, rfl⟩ | ⟨c, _, rfl⟩⟩
    · exact .turnedAway haway
    · exact .done (takenResponse_status q) rfl
    · exact .of_corrupt c
  | sInit =>
    rcases execSInit_next h with haway | ⟨_, rfl⟩
    · exact .turnedAway haway
    · exact .of_okWord rfl rfl
  | sFinal =>
    rcases execSFinal_next h with haway | ⟨_, rfl⟩
    · exact .turnedAway haway
    · exact .of_okWord rfl rfl
  | sSubmit =>
    rcases execSSubmit_next h with haway | ⟨hserved, ⟨_, rfl⟩ | ⟨_, _, rfl⟩⟩
    · exact .turnedAway haway
    · exact .aborted rfl hserved.1 (State.statusField_of_rsp 0x60000000#32 rfl rfl) rfl rfl
    · exact .of_okWord rfl rfl
  | sAck =>
    rcases (execSAck_next h).2 with haway | ⟨_, ⟨c, _, rfl⟩ | ⟨q, _, _, _, rfl⟩⟩
    · exact .turnedAway haway
    · exact .of_corrupt c
    · exact .done (takenResponse_status q) (congrArg Block.abort (s.ackedBy_pumpResult_block q) :)
  | sTmo =>
    rcases execSTmo_next h with haway | ⟨_, _, rfl⟩
    · exact .turnedAway haway
    · exact .of_okWord rfl rfl
  | rInit =>
    rcases execRInit_next h with haway | ⟨_, rfl⟩
    · exact .turnedAway haway
    · exact .of_okWord rfl rfl
  | rFinal =>
    rcases execRFinal_next h with haway | ⟨_, rfl⟩
    · exact .turnedAway haway
    · exact .of_okWord rfl rfl
  | rFrame =>
    rcases (execRFrame_next h).2 with haway | ⟨_, ⟨c, _, rfl⟩ | ⟨q, _, _, _, rfl⟩ | ⟨q, _, _, _, rfl⟩⟩
    · exact .turnedAway haway
    · exact .of_corrupt c
    · exact .done (takenResponse_status q) rfl
    · exact .refused (.inr (.inl (outOfOrderResponse_status q))) rfl rfl

/-- The status of an operation turned away says which check turned it away (R200). -/
theorem State.turnedAway.status_cases {s t : State} {i : Instr} (h : s.turnedAway i t) :
    t.statusField = 0x7#4 ∨ (t.statusField = 0x3#4 ∧ s.serves i = false) := by
  rcases h with ⟨_, rfl⟩ | ⟨_, hclosed, rfl⟩
  · exact .inl (State.statusField_of_rsp 0x70000000#32 rfl rfl)
  · exact .inr ⟨State.statusField_of_rsp 0x30000000#32 rfl rfl, hclosed⟩

/-- Only the check of the modes answers NOT_OPEN (R193). -/
theorem Ending.serves_of_notOpen {i : Instr} {s t : State} (h : Ending i s t) (hstatus : t.statusField = 0x3#4) :
    s.serves i = false := by
  cases h with
  | turnedAway haway =>
    rcases haway.status_cases with haborted | ⟨_, hclosed⟩
    · simp [hstatus] at haborted
    · exact hclosed
  | refused hrefused => simp [hstatus] at hrefused
  | aborted _ _ hfull => simp [hstatus] at hfull
  | done hok => simp [hstatus] at hok

/-- Settles O16: NOT_OPEN is the answer of the one check, and that check refuses the cases of R193. -/
theorem notOpenExactlyWhereTheUnitIsClosed : Obligations.NotOpenExactlyWhereTheUnitIsClosed := by
  intro i s habort hwf
  exact ⟨fun hclosed => exec_of_not_serves habort hwf ((s.serves_eq_false_iff i).2 hclosed),
    fun t hexec hstatus => (s.serves_eq_false_iff i).1 ((exec_ending hexec).serves_of_notOpen hstatus)⟩

/-- A status other than OK and ALLOC_FAIL leaves the block as it was, with no event (R201). -/
theorem Ending.unchanged {i : Instr} {s t : State} (h : Ending i s t) (hok : t.statusField ≠ 0x0#4)
    (hfull : t.statusField ≠ 0x6#4) : t.block = s.block ∧ t.events = [] := by
  cases h with
  | turnedAway haway => exact ⟨haway.block_eq, haway.events_eq⟩
  | refused _ hblock hevents => exact ⟨hblock, hevents⟩
  | aborted _ _ hstatus => exact absurd hstatus hfull
  | done hstatus => exact absurd hstatus hok

/-- ALLOC_FAIL raises `abort`, which was clear, and does nothing else (R196, R201). -/
theorem Ending.of_allocFail {i : Instr} {s t : State} (h : Ending i s t) (hfull : t.statusField = 0x6#4) :
    s.block.abort = false ∧ t.block = { s.block with abort := true } ∧ t.events = [] := by
  cases h with
  | turnedAway haway =>
    rcases haway.status_cases with haborted | ⟨hclosed, _⟩
    · simp [hfull] at haborted
    · simp [hfull] at hclosed
  | refused hrefused => simp [hfull] at hrefused
  | aborted _ hwas _ hblock hevents => exact ⟨hwas, hblock, hevents⟩
  | done hok => simp [hfull] at hok

/-- Settles O13: an illegal word changes nothing, and an operation what its ending says. -/
theorem statusesArePrecise : Obligations.StatusesArePrecise := by
  intro s t c rest hi hstep
  obtain ⟨_, ⟨_, _, ht⟩ | ⟨i, _, hexec⟩⟩ := step_command_next hi hstep
  · have hillegal : t.statusField = 0x5#4 := State.statusField_of_rsp 0x50000000#32 (by rw [ht]; rfl) rfl
    refine ⟨fun _ _ => by rw [ht]; exact ⟨rfl, rfl⟩, fun hfull => ?_⟩
    simp [hillegal] at hfull
  · exact ⟨(exec_ending hexec).unchanged, (exec_ending hexec).of_allocFail⟩

/-- An operation that raises `abort` is a submission that answers ALLOC_FAIL (R202). -/
theorem Ending.of_abort_raised {i : Instr} {s t : State} (h : Ending i s t) (hwas : s.block.abort = false)
    (hraised : t.block.abort = true) : i = .sSubmit ∧ t.statusField = 0x6#4 ∧ t.events = [] := by
  cases h with
  | turnedAway haway => simp [haway.block_eq, hwas] at hraised
  | refused _ hblock => simp [hblock, hwas] at hraised
  | aborted hi _ hstatus _ hevents => exact ⟨hi, hstatus, hevents⟩
  | done _ habort => simp [habort, hwas] at hraised

/-- Settles O17: of all answers only ALLOC_FAIL raises `abort`. -/
theorem abortIsEnteredOnlyByAllocFail : Obligations.AbortIsEnteredOnlyByAllocFail := by
  intro s t c rest hi hstep hwas hraised
  obtain ⟨_, ⟨_, _, rfl⟩ | ⟨i, hd, hexec⟩⟩ := step_command_next hi hstep
  · have hsame : s.block.abort = true := hraised
    simp [hwas] at hsame
  · obtain ⟨rfl, hstatus, hevents⟩ := (exec_ending hexec).of_abort_raised hwas hraised
    exact ⟨hd, hstatus, hevents⟩

end Sys2Proof.Machine
end

section
/-! PROOFS. The timer agent of the closed system (60_exceptions.md R206, R209, R212; log entry 16): it hears every
timer event of the sender's block, and an expiry that is served arms it again. -/

namespace Sys2Proof.Machine

/-- The timer counts exactly when `tmr_run` = 1 (R212). -/
def System.TimerInStep (y : System) : Prop := y.armed = y.snd.block.tmrRun

/-- A command leaves `tmr_run` where the timer events it emits leave the timer (R25, R206). -/
theorem step_command_tmrRun {s t : State} {c : Command} {rest : List Input} (hi : s.inputs = .command c :: rest)
    (h : step s = .next t) : t.block.tmrRun = timerAfter s.block.tmrRun t.events := by
  obtain ⟨_, ⟨_, _, rfl⟩ | ⟨i, _, hexec⟩⟩ := step_command_next hi h
  · rfl
  · have htmr := tmrRunRecordsTheLastTimerEvent i _ t hexec
    exact htmr

/-- The timer hears every event of the sender's block (R227). -/
theorem System.TimerInStep.toSender {y y' : System} {c : Command} (h : y.TimerInStep) (hcmd : y.toSender c = some y') :
    y'.TimerInStep := by
  obtain ⟨t, hstep, rfl⟩ := System.toSender_some hcmd
  have htmr : t.block.tmrRun = timerAfter y.snd.block.tmrRun t.events :=
    step_command_tmrRun (s := y.snd.present c) rfl hstep
  rw [← h] at htmr
  exact htmr.symm

/-- The timer does not hear the receiver's block. -/
theorem System.TimerInStep.toReceiver {y y' : System} {c : Command} (h : y.TimerInStep)
    (hcmd : y.toReceiver c = some y') : y'.TimerInStep := by
  obtain ⟨u, _, rfl⟩ := System.toReceiver_some hcmd
  exact h

/-- A served S_TMO starts the timer and sends frames, so whatever the timer was, it counts afterwards (R148). -/
theorem exec_sTmo_arms {s t : State} (hserved : s.served .sTmo) (h : exec .sTmo s = .next t) (armed : Bool) :
    timerAfter armed t.events = t.block.tmrRun := by
  rcases execSTmo_next h with haway | ⟨_, _, rfl⟩
  · exact absurd haway hserved.not_turnedAway
  · exact timerAfter_sends true s _ _

/-- OPEN and DRAIN are the modes other than DOWN, and they serve S_TMO (R131). -/
theorem State.served_sTmo {s : State} (habort : s.block.abort = false) (hrun : s.block.sMode ≠ .down) :
    s.served .sTmo := by
  refine State.served_of_running habort ?_ (.inr (.inr rfl))
  cases hmode : s.block.sMode with
  | down => exact absurd hmode hrun
  | opened => exact .inl rfl
  | drain => exact .inr rfl

/-- The S_TMO of an expiry, where it is served, brings the timer in step whatever it was (R209, R212). -/
theorem System.timerInStep_of_sTmo {y y' : System} (habort : y.snd.block.abort = false)
    (hrun : y.snd.block.sMode ≠ .down) (hcmd : y.toSender ⟨encode .sTmo, []⟩ = some y') : y'.TimerInStep := by
  obtain ⟨t, hstep, rfl⟩ := System.toSender_some hcmd
  obtain ⟨hlegal, _⟩ := step_command_next rfl hstep
  rw [step_present (s := y.snd) hlegal] at hstep
  exact exec_sTmo_arms (State.served_sTmo (s := y.snd.latchDin []) habort hrun) hstep y.armed

/-- Settles O53: a command keeps the timer in step by the block it goes to, and the link does not touch the timer. -/
theorem timerAgentFollowsTmrRun : Obligations.TimerAgentFollowsTmrRun := by
  intro y y' a (h : y.TimerInStep) hact hreset hexpire
  change y'.TimerInStep
  cases a with
  | resetBoth => exact absurd rfl hreset
  | initSender | finalSender => exact h.toSender hact
  | initReceiver | finalReceiver => exact h.toReceiver hact
  | submit =>
    simp only [System.act] at hact
    split at hact
    · cases hact
    · next _ rest _ => exact System.TimerInStep.toSender (y := { y with upper := rest }) h hact
  | expire =>
    simp only [System.act] at hact
    split at hact
    · obtain ⟨habort, hrun⟩ := hexpire rfl
      exact System.timerInStep_of_sTmo (y := { y with armed := false }) habort hrun hact
    · cases hact
  | dataArrives k =>
    simp only [System.act] at hact
    split at hact
    · cases hact
    · exact System.TimerInStep.toReceiver (y := { y with dataLink := y.dataLink.eraseIdx k }) h hact
  | ackArrives k =>
    simp only [System.act] at hact
    split at hact
    · cases hact
    · exact System.TimerInStep.toSender (y := { y with ackLink := y.ackLink.eraseIdx k }) h hact
  | dataDropped | ackDropped | dataCorrupted | ackCorrupted =>
    simp only [System.act] at hact
    split at hact
    · cases hact
      exact h
    · cases hact
  | dataDuplicated | ackDuplicated =>
    simp only [System.act] at hact
    split at hact
    · cases hact
    · cases hact
      exact h

end Sys2Proof.Machine
end

section
/-! PROOFS. Reset (70_reset_and_hazards.md R220, R221): what a step with a reset leaves, and that no command leaves what
reset alone can. -/

namespace Sys2Proof.Machine

/-! ### A step that takes a reset (R220, R225) -/

/-- Legal constants are not refused (R225). -/
theorem runReset_legal {cfg : Config} (hlegal : cfg.legal = true) (s : State) : runReset cfg s = .next s :=
  if_pos hlegal

theorem step_reset {s : State} {cfg : Config} {rest : List Input} (hs : s.cfg.legal = true) (hlegal : cfg.legal = true)
    (hi : s.inputs = .reset cfg :: rest) : step s = .next ((s.withInputs rest).applyReset cfg) := by
  simp only [step, if_pos hs, hi, runReset_legal hlegal]

/-- A reset that cuts short a command which would have been answered (R220; log entry 9). -/
theorem step_resetDuring {s done : State} {c : Command} {n : Nat} {cfg : Config} {rest : List Input}
    (hs : s.cfg.legal = true) (hlegal : cfg.legal = true) (hi : s.inputs = .resetDuring c n cfg :: rest)
    (hdone : runCommand c (s.withInputs rest) = .next done) :
    step s = .next ((s.withInputs rest).applyResetDuring done n cfg) := by
  simp only [step, if_pos hs, hi, hdone, runReset_legal hlegal]

/-! ### What no command does (R221) -/

/-- No operation clears `abort`: one ending raises it, the others leave it. -/
theorem Ending.abort_stays {i : Instr} {s t : State} (h : Ending i s t) (hwas : s.block.abort = true) :
    t.block.abort = true := by
  cases h with
  | turnedAway haway => rw [haway.block_eq, hwas]
  | refused _ hblock => rw [hblock, hwas]
  | aborted _ _ _ hblock => rw [hblock]
  | done _ habort => rw [habort, hwas]

/-- No operation enters DOWN: S_INIT leaves OPEN, S_FINAL leaves DRAIN, and the others leave `s_mode` (R153). -/
theorem ModeMove.down_was {i : Instr} {b b' : Block} (h : ModeMove i b b') (hdown : b'.sMode = .down) :
    b.sMode = .down := by
  cases h with
  | kept hmode | receiverOpened _ hmode | receiverClosed _ _ hmode => rw [← hmode, hdown]
  | opened _ hmode | drained _ _ hmode => cases hmode.symm.trans hdown

/-- Settles O7: the reset state, the endings of an operation and its moves of the modes. -/
theorem resetClearsTheRegistersAndAloneClearsAbort : Obligations.ResetClearsTheRegistersAndAloneClearsAbort := by
  refine ⟨fun s cfg rest hs hlegal hi => ?_, fun s t c rest hi hstep => ?_⟩
  · exact ⟨_, step_reset hs hlegal hi, rfl, rfl, rfl, rfl, rfl, rfl, rfl, rfl, rfl, rfl⟩
  · obtain ⟨_, ⟨_, _, rfl⟩ | ⟨i, _, hexec⟩⟩ := step_command_next hi hstep
    · exact ⟨id, id⟩
    · exact ⟨(exec_ending hexec).abort_stays, (exec_modeMove hexec).down_was⟩

/-- Settles O9: the command that reset cuts short runs as it would alone. -/
theorem resetCutsAnOperationShort : Obligations.ResetCutsAnOperationShort := by
  intro s done c n cfg rest hi hlegal halone
  have hs : s.cfg.legal = true := (step_command_next rfl halone).1
  rw [step_command (s := { s with inputs := .command c :: rest }) hs rfl] at halone
  exact step_resetDuring hs hlegal hi halone

end Sys2Proof.Machine
end

section
/-! PROOFS. The liveness gap (70_reset_and_hazards.md R231): a timeout resends frames that a receiver past the window
drops. -/

namespace Sys2Proof.Machine

/-- A timeout moves neither end of the window (R148). -/
theorem exec_sTmo_window {s t : State} (h : exec .sTmo s = .next t) :
    t.cfg = s.cfg ∧ t.block.base = s.block.base ∧ t.block.nextSeqNum = s.block.nextSeqNum := by
  rcases execSTmo_next h with haway | ⟨_, _, rfl⟩
  · exact ⟨haway.cfg_eq, by rw [haway.block_eq], by rw [haway.block_eq]⟩
  · exact ⟨rfl, rfl, rfl⟩

/-- A frame that an operation sends has C bytes and decodes to a number below `next_seq_num` (R149). -/
theorem exec_sSend_decodes {i : Instr} {s t : State} {f : Bytes} (h : s.Inv) (hexec : exec i s = .next t)
    (hf : Event.sSend f ∈ t.events) : f.length = t.cfg.C ∧
      ∃ q p, decodeFrame t.cfg f = .ok q p ∧ q.toNat < t.block.nextSeqNum.toNat := by
  obtain ⟨_, _, _, _, p, hd⟩ := everyFrameSentIsTheStoredFrame i s t h hexec f hf
  obtain ⟨hlen, hsent⟩ := (exec_sendsFromWindow h hexec hf).hasTransmitted (exec_inv h hexec)
  exact ⟨hlen, _, p, hd, (hsent _ p hd).1⟩

/-- Settles O54: every number sent lies below `next_seq_num`, so below the cursor, and is not the cursor's. -/
theorem resentWindowIsNeverAcknowledgedAgain : Obligations.ResentWindowIsNeverAcknowledgedAgain := by
  intro s t r h hexec hcfg habort hopen hpast
  obtain ⟨hsame, hbase, hnext⟩ := exec_sTmo_window hexec
  refine ⟨hbase, fun f hf => ?_⟩
  obtain ⟨hlen, q, p, hd, hq⟩ := exec_sSend_decodes h hexec hf
  rw [hsame, ← hcfg] at hlen hd
  rw [hnext] at hq
  have hbelow : q.toNat ≠ r.block.expectedSeqNum.toNat := Nat.ne_of_lt (Nat.lt_of_lt_of_le hq hpast)
  exact ⟨q, (otherFramesAreDroppedSilently { r with din := f } habort hopen hlen).2 q p hd hbelow⟩

end Sys2Proof.Machine
end
